-- ==== Sys2Proof/Word.lean ====
section
/-! DEFINITION. The two widths of MAZECORE: the 32-bit word of every register, grid word, stack slot and
command (spec/10_state.md section 7, spec/30_encoding.md R80), and the byte lane of the host window
(spec/20_memory.md R53). -/

namespace Sys2Proof

/-- A 32-bit word; bit 0 is the least significant (R10). -/
abbrev Word := BitVec 32

/-- One byte lane of a word (R53). -/
abbrev Byte := BitVec 8

end Sys2Proof
end

