-- ==== Sys2Proof/Config.lean ====
section
/-! DEFINITION. What a build of MAZECORE fixes (spec/00_scope.md R6) and the values the spec leaves free. -/

namespace Sys2Proof

/-- The overflow test of step 2a of a generation (R6, R184). -/
inductive OvfAbortMode where
  | sticky
  | count
  deriving DecidableEq, Repr

/-- The storage technology; it has no architectural effect (R6, R249). -/
inductive GridImpl where
  | bram
  | lutram
  deriving DecidableEq, Repr

/-- The parameters of R6. They are fixed when the block is built; the model carries them as data in the state so that
every build is covered, and no step changes them (log entry 1). -/
structure Params where
  /-- `W`, the grid width in cells. -/
  w : Nat
  /-- `H`, the grid height in cells. -/
  h : Nat
  /-- `CAP`, the stack capacity in entries. -/
  cap : Nat
  /-- `NEAR_MARGIN` of the neighbor rule (R140). -/
  nearMargin : Nat
  /-- `FAR_MARGIN` of the neighbor rule (R140). -/
  farMargin : Nat
  /-- `SEED_INIT`, the seed after reset (R27, R240). -/
  seedInit : Word
  /-- `OVF_ABORT_MODE` (R184). -/
  ovfAbortMode : OvfAbortMode
  /-- `CLAMP_WB`: whether the clamped PRNG output is written back into the seed (R161). -/
  clampWb : Bool
  /-- `GRID_IMPL` (R249); nothing reads it. -/
  gridImpl : GridImpl
  deriving DecidableEq, Repr

/-- The reference values of the table of R6. `GRID_IMPL` is "either" there; `bram` is taken (no effect, R249). -/
def Params.reference : Params where
  w := 240
  h := 160
  cap := 5000
  nearMargin := 2
  farMargin := 3
  seedInit := 0
  ovfAbortMode := .sticky
  clampWb := false
  gridImpl := .bram

/-- The value of a read of CUR, SEED or STKCNT while BUSY = 1: unspecified, drawn afresh at each read (R247, I8). The
argument is the number of the draw. Free value, log entry 4. -/
opaque Config.freeLive : Nat → Word

/-- The OVF bit of a STATUS read while BUSY = 1: unspecified, drawn afresh at each read (R247, I9). Free value, log
entry 4. -/
opaque Config.freeFlag : Nat → Bool

/-- The byte of a stack slot that no push has written since reset: unspecified (R23, R240, I7). The arguments are the
number of resets so far and the byte's address. Free value, log entry 5. -/
opaque Config.freeSlotByte : Nat → Nat → Byte

end Sys2Proof
end

