-- ==== Sys2Proof/Syntax.lean ====
section
/-! DEFINITION. The commands of MAZECORE, one constructor per row of spec/opcode_table.json (spec/30_encoding.md R82),
with the two fields a command word can carry: the value bit V and the direction D (R81). The other operand of a command
is the latched ARG word, which is state (R87), not syntax. -/

namespace Sys2Proof

/-- The four cardinal directions, in the canonical order of R14. -/
inductive Dir where
  | north
  | east
  | south
  | west
  deriving DecidableEq, Repr

/-- The 18 commands of R82. -/
inductive Instr where
  | nop
  | gridClear
  | gridRead
  /-- GRID_WRITE with its value bit `V = c[8]`. -/
  | gridWrite (v : Bool)
  | gridRdword
  | stkReset
  | stkPush
  | stkPop
  | stkSize
  | nbr
  | pick
  /-- CARVE with its direction `D = c[10:9]`. -/
  | carve (d : Dir)
  | prngNext
  | prngTick
  | prngSeed
  | genRun
  | genCenter
  | genAck
  deriving DecidableEq, Repr

end Sys2Proof
end

