-- ==== Sys2Proof/WellFormed.lean ====
section
/-! DEFINITION. What is well formed: a command (every term of `Instr`, since its two fields are typed by exactly the
values their bits can hold) and a build (the parameter ranges of spec/00_scope.md R8). -/

namespace Sys2Proof

/-- Is the command one an encoding exists for? V is one bit and D two bits (R81); `Bool` and `Dir` hold exactly their
values, so no constructor needs a check. -/
def Instr.wellFormed : Instr → Bool
  | .nop | .gridClear | .gridRead | .gridWrite _ | .gridRdword => true
  | .stkReset | .stkPush | .stkPop | .stkSize => true
  | .nbr | .pick | .carve _ => true
  | .prngNext | .prngTick | .prngSeed => true
  | .genRun | .genCenter | .genAck => true

/-- The legal parameter values of R8. CLAMP_WB, OVF_ABORT_MODE and GRID_IMPL hold only their listed values by type. -/
def Params.legal (p : Params) : Bool :=
  decide (1 ≤ p.w) && decide (p.w ≤ 65535) && (decide (1 ≤ p.h) && decide (p.h ≤ 65535)) &&
    (decide (1 ≤ p.cap) && decide (p.cap ≤ 2 ^ 24)) && (decide (2 ≤ p.nearMargin) && decide (3 ≤ p.farMargin))

end Sys2Proof
end

