-- ==== Sys2Proof/Decode.lean ====
section
/-! DEFINITION. From a command word to a command and back (spec/30_encoding.md R80 to R86). `decode` is total on every
32-bit word and rejects by name; `legalWord` is the predicate of R85, written apart from the decoder; `encode` gives
the word of R83. -/

namespace Sys2Proof

/-- Why a word is no command. Every reason has the same effect, `Error(ILLEGAL)` at completion (R85, R86); the names
say which check of R84 failed first in the decoder's order. -/
inductive DecodeError where
  /-- RSV, bits 31:11, is not zero. -/
  | reservedBits
  /-- OPC, bits 7:0, is no opcode of R82. -/
  | unknownOpcode
  /-- V, bit 8, is set in a command that does not use it. -/
  | strayValueBit
  /-- D, bits 10:9, is not zero in a command that does not use it. -/
  | strayDirection
  deriving DecidableEq, Repr

/-- OPC, bits 7:0 (R81). -/
def fieldOpc (c : Word) : BitVec 8 := c.extractLsb' 0 8

/-- V, bit 8 (R81). -/
def fieldV (c : Word) : Bool := c.getLsbD 8

/-- D, bits 10:9 (R81). -/
def fieldD (c : Word) : BitVec 2 := c.extractLsb' 9 2

/-- RSV, bits 31:11 (R81). -/
def fieldRsv (c : Word) : BitVec 21 := c.extractLsb' 11 21

/-- The 2-bit code of a direction (R14). -/
def dirCode : Dir → BitVec 2
  | .north => 0
  | .east => 1
  | .south => 2
  | .west => 3

/-- The direction of a 2-bit code (R14). -/
def dirOfCode (d : BitVec 2) : Dir :=
  if d = 0 then .north else if d = 1 then .east else if d = 2 then .south else .west

/-- A command that uses neither V nor D: both must be zero (R84). -/
def decodePlain (c : Word) (i : Instr) : Except DecodeError Instr :=
  if fieldV c then .error .strayValueBit else if fieldD c ≠ 0 then .error .strayDirection else .ok i

/-- The decoder: the opcode map of R82 under the strict field use of R84. -/
def decode (c : Word) : Except DecodeError Instr :=
  if fieldRsv c ≠ 0 then .error .reservedBits
  else match (fieldOpc c).toNat with
    | 0x00 => decodePlain c .nop
    | 0x01 => decodePlain c .gridClear
    | 0x02 => decodePlain c .gridRead
    | 0x03 => if fieldD c ≠ 0 then .error .strayDirection else .ok (.gridWrite (fieldV c))
    | 0x04 => decodePlain c .gridRdword
    | 0x08 => decodePlain c .stkReset
    | 0x09 => decodePlain c .stkPush
    | 0x0A => decodePlain c .stkPop
    | 0x0B => decodePlain c .stkSize
    | 0x10 => decodePlain c .nbr
    | 0x11 => decodePlain c .pick
    | 0x12 => if fieldV c then .error .strayValueBit else .ok (.carve (dirOfCode (fieldD c)))
    | 0x18 => decodePlain c .prngNext
    | 0x19 => decodePlain c .prngTick
    | 0x1A => decodePlain c .prngSeed
    | 0x20 => decodePlain c .genRun
    | 0x21 => decodePlain c .genCenter
    | 0x22 => decodePlain c .genAck
    | _ => .error .unknownOpcode

/-- The opcodes of R82. -/
def opcodes : List (BitVec 8) :=
  [0x00, 0x01, 0x02, 0x03, 0x04, 0x08, 0x09, 0x0A, 0x0B, 0x10, 0x11, 0x12, 0x18, 0x19, 0x1A, 0x20, 0x21, 0x22]

/-- `Legal(c)` of R85. -/
def legalWord (c : Word) : Bool :=
  (fieldRsv c == 0) && opcodes.contains (fieldOpc c) && (fieldOpc c == 0x03 || !fieldV c) &&
    (fieldOpc c == 0x12 || fieldD c == 0)

/-- The word with the given fields and RSV = 0 (R81). -/
def wordOf (opc : BitVec 8) (v : Bool) (d : BitVec 2) : Word := 0#21 ++ d ++ BitVec.ofBool v ++ opc

/-- The encoder, from the opcode map of R82. -/
def encode : Instr → Word
  | .nop => wordOf 0x00 false 0
  | .gridClear => wordOf 0x01 false 0
  | .gridRead => wordOf 0x02 false 0
  | .gridWrite v => wordOf 0x03 v 0
  | .gridRdword => wordOf 0x04 false 0
  | .stkReset => wordOf 0x08 false 0
  | .stkPush => wordOf 0x09 false 0
  | .stkPop => wordOf 0x0A false 0
  | .stkSize => wordOf 0x0B false 0
  | .nbr => wordOf 0x10 false 0
  | .pick => wordOf 0x11 false 0
  | .carve d => wordOf 0x12 false (dirCode d)
  | .prngNext => wordOf 0x18 false 0
  | .prngTick => wordOf 0x19 false 0
  | .prngSeed => wordOf 0x1A false 0
  | .genRun => wordOf 0x20 false 0
  | .genCenter => wordOf 0x21 false 0
  | .genAck => wordOf 0x22 false 0

/-- The instruction the decoder reads from an instruction whose bits are `w`: a command is one 32-bit word (R80), the
first `nbits` of its bits are `w`'s and the rest are zero. -/
def decodeTableWord (nbits w : Nat) : Option Instr :=
  match decode (BitVec.ofNat 32 (w % 2 ^ nbits)) with
  | .ok i => some i
  | .error _ => none

end Sys2Proof
end

