-- ==== Sys2Proof/Machine/State.lean ====
section
/-! DEFINITION. The state of MAZECORE (spec/10_state.md R20), the ways a step can stop, and the state after reset
(spec/70_reset_and_hazards.md R240). Plain data throughout. -/

namespace Sys2Proof.Machine

/-- Why the machine stops with a fault. -/
inductive Fault where
  /-- A push or a pop in a state whose IDX names no slot (IDX ≥ CAP): the address does not exist (R23, R24). Raised by
  STK_PUSH and STK_POP. No run reaches such a state. Safe: the model stops where the spec describes no machine (log
  entry 12). -/
  | slotOutside
  deriving DecidableEq, Repr

/-- Why a step is refused. -/
inductive Refusal where
  /-- An instruction without a meaning; no arm of `exec` answers it. Safe. -/
  | notModelled (mnemonic : String)
  /-- The build's parameters are outside the ranges of R8, which asks that "a model refuses it". Raised by `step`. Safe
  (log entry 13). -/
  | illegalBuild
  deriving DecidableEq, Repr

/-- The generator states of R29. `carving` is only ever shown through STATUS (R43); STATE_R never holds it (R29). -/
inductive GenState where
  | idle
  | carving
  | done
  | overflow
  deriving DecidableEq, Repr

/-- The result codes of R211. The codes 6 to 15 are never written (R33), so they have no constructor. -/
inductive ErrCode where
  | ok
  | illegal
  | range
  | empty
  | nodir
  | stkovf
  deriving DecidableEq, Repr

/-- INFL, the command in flight (R30). -/
inductive InFlight where
  | none
  | resetClear
  | command (cmd arg : Word)
  deriving DecidableEq, Repr

/-- One access of the host bus (R50): a byte offset into the 64-byte window, and for a write the data and the byte
strobe. -/
inductive Access where
  | read (off : BitVec 6)
  | write (off : BitVec 6) (data : Word) (strobe : BitVec 4)
  deriving DecidableEq, Repr

/-- The response to an access (R50). -/
inductive Response where
  | readOk (data : Word)
  | writeOk
  /-- ERROR for a read; its read data is 0x00000000. -/
  | readError
  | writeError
  deriving DecidableEq, Repr

/-- The read data a response carries; ERROR carries 0x00000000 (R50), a write carries none and 0 stands for it. -/
def Response.data : Response → Word
  | .readOk v => v
  | .writeOk | .readError | .writeError => 0

/-- A step the outside world has in store (R9): a host access, the moment the SEQ step falls, a reset. -/
inductive Event where
  | host (a : Access)
  | seq
  | reset
  deriving DecidableEq, Repr

/-- The registers of the host window (R54). -/
inductive Reg where
  | cmd
  | arg
  | res
  | status
  | cur
  | seed
  | stkcnt
  | geom
  | capr
  deriving DecidableEq, Repr

/-- A Position (R13). Coordinates are natural numbers (R11). -/
structure Pos where
  x : Nat
  y : Nat
  deriving DecidableEq, Repr

/-- A storage space: the bytes that differ from what an unlisted address reads as, by rising address. Byte `i` of word
`a` has the address `4 * a + i` (log entry 7). -/
abbrev Memory := List Host.Cell

/-- The state record of R20, and after it the model's own fields. -/
structure State where
  /-- `G`, the grid words (R21). An unlisted byte reads as 0. -/
  grid : Memory
  /-- `S`, the stack slots (R23). An unlisted byte is unspecified. -/
  slots : Memory
  /-- `IDX`, the circular index: the slot the next push writes (R24). -/
  idx : Nat
  /-- `CNT`, the live count (R25). -/
  cnt : Word
  /-- `OVF`, the sticky overflow flag (R26). -/
  ovf : Bool
  /-- `SEED`, the PRNG state (R27). -/
  seed : Word
  /-- `CUR`, the generator's current position, packed (R28). -/
  cur : Word
  /-- `STATE_R`, the generator state (R29). -/
  stateR : GenState
  /-- `ARG`, the operand register (R41). -/
  arg : Word
  /-- `RES`, the result register (R42). -/
  res : Word
  /-- `ERR`, the outcome of the last completed command (R32, R33). -/
  err : ErrCode
  /-- `CMDLOST`, the sticky "command dropped" flag (R34). -/
  cmdLost : Bool
  /-- `INFL`, the command in flight (R30). -/
  infl : InFlight
  /-- The model's own: the build's parameters (R6), which no step changes (log entry 1). -/
  cfg : Params
  /-- The model's own: the events in store, the next one first (log entry 2). -/
  pending : List Event
  /-- The model's own: the bus responses given so far, the newest first (log entry 3). -/
  responses : List Response
  /-- The model's own: how many free values the reads while busy have drawn (log entry 4). -/
  draws : Nat
  /-- The model's own: how many resets there have been, which the unspecified slot contents depend on (log entry 5). -/
  epoch : Nat
  deriving DecidableEq, Repr

/-- The state after a reset of a build with parameters `p` (R20, R240, R241): IDLE with BUSY = 1, the grid zero. -/
def State.powerOn (p : Params) : State where
  grid := []
  slots := []
  idx := 0
  cnt := 0
  ovf := false
  seed := p.seedInit
  cur := 0
  stateR := .idle
  arg := 0
  res := 0
  err := .ok
  cmdLost := false
  infl := .resetClear
  cfg := p
  pending := []
  responses := []
  draws := 0
  epoch := 0

/-- The reference instance right after reset. -/
def State.reset : State := State.powerOn Params.reference

end Sys2Proof.Machine
end

