-- ==== Sys2Proof/Machine/Memory.lean ====
section
/-! DEFINITION. The operations over a storage space: one byte, and the whole 32-bit word the rules read and write
(spec/20_memory.md R58, R59). The byte order inside a word is decided here once: little-endian, as the window's lanes
(R53; log entry 7). -/

namespace Sys2Proof.Machine

/-- Byte `i` of a word: bits `8i+7 : 8i` (R53). -/
def wordByte (w : Word) (i : Nat) : Byte := w.extractLsb' (8 * i) 8

/-- The word of four bytes, the first the least significant (R53). -/
def wordOfBytes (b0 b1 b2 b3 : Byte) : Word := b3 ++ b2 ++ b1 ++ b0

/-- The listed byte at an address. -/
def Memory.find? : Memory → Nat → Option Byte
  | [], _ => none
  | (a, b) :: m, k => if k = a then some b else Memory.find? m k

/-- The byte at an address, where an unlisted address `k` reads as `d k`. -/
def Memory.byte (m : Memory) (d : Nat → Byte) (k : Nat) : Byte := (Memory.find? m k).getD (d k)

/-- List a byte at an address, keeping the addresses rising. -/
def Memory.insert : Memory → Nat → Byte → Memory
  | [], k, v => [(k, v)]
  | (a, b) :: m, k, v =>
    if k < a then (k, v) :: (a, b) :: m
    else if k = a then (k, v) :: m
    else (a, b) :: Memory.insert m k v

/-- Take an address off the list. -/
def Memory.erase : Memory → Nat → Memory
  | [], _ => []
  | (a, b) :: m, k => if k = a then Memory.erase m k else (a, b) :: Memory.erase m k

/-- Write one byte, keeping the canonical form: a byte equal to what an unlisted address reads as (`blank`, where there
is such a value) is not listed. -/
def Memory.setByte (blank : Option Byte) (m : Memory) (k : Nat) (v : Byte) : Memory :=
  if blank = some v then Memory.erase m k else Memory.insert m k v

/-- The word at a word address. -/
def Memory.word (m : Memory) (d : Nat → Byte) (a : Nat) : Word :=
  wordOfBytes (Memory.byte m d (4 * a)) (Memory.byte m d (4 * a + 1)) (Memory.byte m d (4 * a + 2))
    (Memory.byte m d (4 * a + 3))

/-- Write the word at a word address. -/
def Memory.setWord (blank : Option Byte) (m : Memory) (a : Nat) (w : Word) : Memory :=
  Memory.setByte blank (Memory.setByte blank (Memory.setByte blank (Memory.setByte blank m
    (4 * a) (wordByte w 0)) (4 * a + 1) (wordByte w 1)) (4 * a + 2) (wordByte w 2)) (4 * a + 3) (wordByte w 3)

/-- The addresses rise strictly, and all lie above `lo` where one is given. -/
def Memory.rising : Option Nat → Memory → Bool
  | _, [] => true
  | none, (a, _) :: m => Memory.rising (some a) m
  | some lo, (a, _) :: m => decide (lo < a) && Memory.rising (some a) m

/-- The canonical form: addresses strictly rising, and no entry equal to what an unlisted address reads as. -/
def Memory.wf (blank : Option Byte) (m : Memory) : Bool :=
  Memory.rising none m && m.all (fun c => blank != some c.2)

/-- Every listed byte lies in the space's `n` words. -/
def Memory.within (n : Nat) (m : Memory) : Bool := m.all (fun c => decide (c.1 < 4 * n))

end Sys2Proof.Machine
end

