-- ==== Sys2Proof/Machine/Operands.lean ====
section
/-! DEFINITION. Geometry and operands: the derived constants of spec/00_scope.md R7, Positions and directions (R13 to
R15), the operand forms of spec/30_encoding.md R87 and the result layouts of R88. -/

namespace Sys2Proof.Machine

/-- `WPR`, the grid words of a row (R7). -/
def wpr (p : Params) : Nat := (p.w + 31) / 32

/-- `NWORDS`, the grid words (R7). -/
def nwords (p : Params) : Nat := p.h * wpr p

/-- `PAD`, the pad bits at the end of each row (R7). -/
def padBits (p : Params) : Nat := wpr p * 32 - p.w

/-- `InGrid(x, y)` (R15). -/
def inGrid (p : Params) (q : Pos) : Bool := decide (q.x < p.w) && decide (q.y < p.h)

/-- `pack(x, y)` (R13). -/
def packPos (q : Pos) : Word := BitVec.ofNat 16 q.y ++ BitVec.ofNat 16 q.x

/-- `unpack(w)` (R13): `x = w[15:0]`, `y = w[31:16]`. -/
def unpackPos (w : Word) : Pos := ⟨(w.extractLsb' 0 16).toNat, (w.extractLsb' 16 16).toNat⟩

/-- `dx` of a direction's unit vector (R14). -/
def unitX : Dir → Int
  | .north => 0
  | .east => 1
  | .south => 0
  | .west => -1

/-- `dy` of a direction's unit vector (R14); y grows downwards. -/
def unitY : Dir → Int
  | .north => -1
  | .east => 0
  | .south => 1
  | .west => 0

/-- `x + n*dx`, on integers (R11, R145). -/
def alongX (q : Pos) (d : Dir) (n : Nat) : Int := q.x + n * unitX d

/-- `y + n*dy`, on integers (R11, R145). -/
def alongY (q : Pos) (d : Dir) (n : Nat) : Int := q.y + n * unitY d

/-- The Position `n` cells away, for use after a test has shown that its coordinates are not negative (R11). -/
def stepPos (q : Pos) (d : Dir) (n : Nat) : Pos := ⟨(alongX q d n).toNat, (alongY q d n).toNat⟩

/-- `x + n*dx` and `y + n*dy` are both at least 0 and in the grid (R145). -/
def inGridAlong (p : Params) (q : Pos) (d : Dir) (n : Nat) : Bool :=
  decide (0 ≤ alongX q d n) && decide (0 ≤ alongY q d n) && inGrid p (stepPos q d n)

/-- The operand word of the completing command: the ARG value latched at issue (R30, R87). With no command in flight,
which no step of the machine runs a command in, it is what an issue would latch (R243; log entry 11). -/
def State.operand (s : State) : Word :=
  match s.infl with
  | .command _ a => a
  | .none | .resetClear => s.arg

/-- The Position operand (R87). -/
def State.posOperand (s : State) : Pos := unpackPos s.operand

/-- `k`, the word within the row, of GRID_RDWORD's operand (R87). -/
def State.wordOperandK (s : State) : Nat := (s.operand.extractLsb' 0 16).toNat

/-- `y`, the row, of GRID_RDWORD's operand (R87). -/
def State.wordOperandY (s : State) : Nat := (s.operand.extractLsb' 16 16).toNat

/-- The result of GRID_READ, `zext_32` of the cell's bit (R88). -/
def resBit (b : Bool) : Word := BitVec.setWidth 32 (BitVec.ofBool b)

/-- The result of NBR: count in bits 10:8, mask in bits 3:0 (R88, R143). -/
def resNbr (mask : BitVec 4) (cnt : Nat) : Word := 0#21 ++ BitVec.ofNat 3 cnt ++ 0#4 ++ mask

/-- The result of PICK: count in bits 10:8, index in bits 5:4, direction code in bits 1:0 (R88, R144). -/
def resPick (cnt idx : Nat) (d : Dir) : Word :=
  0#21 ++ BitVec.ofNat 3 cnt ++ 0#2 ++ BitVec.ofNat 2 idx ++ 0#2 ++ dirCode d

end Sys2Proof.Machine
end

