-- ==== Sys2Proof/Machine/Flags.lean ====
section
/-! DEFINITION. The flags and what STATUS shows of them: BUSY, the STATE view, the sticky overflow rule, the ERR codes
and the STATUS word (spec/10_state.md R26, R29, R30, R43; spec/60_exceptions.md R211). -/

namespace Sys2Proof.Machine

/-- The 2-bit code of a generator state (R29). -/
def genStateCode : GenState → BitVec 2
  | .idle => 0
  | .carving => 1
  | .done => 2
  | .overflow => 3

/-- The 4-bit code of a result (R211). -/
def errCode : ErrCode → BitVec 4
  | .ok => 0
  | .illegal => 1
  | .range => 2
  | .empty => 3
  | .nodir => 4
  | .stkovf => 5

/-- BUSY is `INFL != none` (R30). -/
def State.busy (s : State) : Bool :=
  match s.infl with
  | .none => false
  | .resetClear | .command _ _ => true

/-- Is the word a GEN_RUN or GEN_CENTER word that is a legal encoding (R43)? -/
def isGenWord (c : Word) : Bool :=
  match decode c with
  | .ok .genRun | .ok .genCenter => true
  | _ => false

/-- STATUS.STATE: CARVING while a legal generation word is in flight, else STATE_R (R43). -/
def State.stateView (s : State) : GenState :=
  match s.infl with
  | .command c _ => if isGenWord c then .carving else s.stateR
  | .none | .resetClear => s.stateR

/-- OVF after a push that left the live count at `cnt`: set iff `CNT > CAP`, and sticky (R26, R120). -/
def ovfAfterPush (cap : Nat) (cnt : Word) (ovf : Bool) : Bool := ovf || decide (cap < cnt.toNat)

/-- The STATUS word with a given OVF bit (R43): BUSY 0, STATE 2:1, OVF 3, ERR 7:4, CMDLOST 8, the rest 0. -/
def State.statusWord (s : State) (ovf : Bool) : Word :=
  0#23 ++ BitVec.ofBool s.cmdLost ++ errCode s.err ++ BitVec.ofBool ovf ++ genStateCode s.stateView ++
    BitVec.ofBool s.busy

end Sys2Proof.Machine
end

