-- ==== Sys2Proof/Machine/Ops.lean ====
section
/-! DEFINITION. The named operations over the state: grid words and cells (spec/10_state.md R21), the stack primitives
(spec/42_stack.md R120, R121), the PRNG draw (spec/44_prng.md R160, R161), how a command ends (spec/60_exceptions.md
R211 to R214) and the reset (spec/70_reset_and_hazards.md R240). -/

namespace Sys2Proof.Machine

/-! ### How a command ends -/

/-- A completion's last writes: ERR <- the outcome, INFL <- none (R211, R244). -/
def State.complete (s : State) (e : ErrCode) : State := { s with err := e, infl := .none }

/-- `raise Error(code)`: the block's one form of exception entry. Applied to the state before the command, it discards
the command's writes; only ERR and BUSY change (R12, R212, R218). -/
def State.raiseError (s : State) (e : ErrCode) : State := s.complete e

/-- The end of a command without error: ERR <- OK (R244). There is no other return: an error's code stays until the
next completion overwrites it (R219). -/
def State.finish (s : State) : State := s.complete .ok

/-- RES <- v (R42). -/
def State.setRes (s : State) (v : Word) : State := { s with res := v }

/-! ### The grid -/

/-- `w` with bit `i` set to `b`. -/
def setBit (w : Word) (i : Nat) (b : Bool) : Word :=
  if b then w ||| (1#32 <<< i) else w &&& ~~~(1#32 <<< i)

/-- The word address of a cell: `y * WPR + (x div 32)` (R21). -/
def cellAddr (p : Params) (q : Pos) : Nat := q.y * wpr p + q.x / 32

/-- `G[a]` (R21). -/
def State.gridWord (s : State) (a : Nat) : Word := Memory.word s.grid (fun _ => 0) a

/-- One byte of the grid storage (log entry 7). -/
def State.gridByte (s : State) (k : Nat) : Byte := Memory.byte s.grid (fun _ => 0) k

/-- `GridRead(x, y)`: bit `x mod 32` of the cell's word (R21). -/
def State.gridRead (s : State) (q : Pos) : Bool := (s.gridWord (cellAddr s.cfg q)).getLsbD (q.x % 32)

/-- `G[a] <- w`. -/
def State.setGridWord (s : State) (a : Nat) (w : Word) : State :=
  { s with grid := Memory.setWord (some 0) s.grid a w }

/-- `GridWrite(x, y, b)`: the other 31 bits of the word stay (R21, R103). -/
def State.gridWrite (s : State) (q : Pos) (b : Bool) : State :=
  s.setGridWord (cellAddr s.cfg q) (setBit (s.gridWord (cellAddr s.cfg q)) (q.x % 32) b)

/-- `for a in 0 .. NWORDS-1: G[a] <- 0` (R101). -/
def State.gridClear (s : State) : State := { s with grid := [] }

/-! ### The stack -/

/-- `S[i]` (R23). -/
def State.slot (s : State) (i : Nat) : Word := Memory.word s.slots (Config.freeSlotByte s.epoch) i

/-- One byte of the slot storage (log entries 5 and 7). -/
def State.slotByte (s : State) (k : Nat) : Byte := Memory.byte s.slots (Config.freeSlotByte s.epoch) k

/-- `IDX <- 0; CNT <- 0; OVF <- 0`; the slots stay (R122). -/
def State.stkReset (s : State) : State := { s with idx := 0, cnt := 0, ovf := false }

/-- `StkPush(v)` (R120). -/
def State.stkPush (s : State) (v : Word) : State :=
  { s with
    slots := Memory.setWord none s.slots s.idx v
    idx := (s.idx + 1) % s.cfg.cap
    cnt := s.cnt + 1
    ovf := ovfAfterPush s.cfg.cap (s.cnt + 1) s.ovf }

/-- IDX after a pop: `(IDX + CAP - 1) mod CAP` (R121). -/
def State.popIdx (s : State) : Nat := (s.idx + s.cfg.cap - 1) % s.cfg.cap

/-- The value a pop returns: `S[IDX]` after the decrement (R121, R126). -/
def State.popValue (s : State) : Word := s.slot s.popIdx

/-- The state after a pop of a stack whose count is not 0 (R121); OVF is not changed. -/
def State.popState (s : State) : State := { s with idx := s.popIdx, cnt := s.cnt - 1 }

/-- `StkPop()` (R121): none for EMPTY. -/
def State.stkPop (s : State) : Option (Word × State) :=
  if s.cnt = 0 then none else some (s.popValue, s.popState)

/-! ### The PRNG -/

/-- `Lcg(s)` (R160). -/
def lcg (s : Word) : Word := 1103515245#32 * s + 12345#32

/-- The output clamp at 0xFFFFFFFB (R161). -/
def prngClamp (raw : Word) : Word := if raw.toNat ≤ 0xFFFFFFFB then raw else 0xFFFFFFFB#32

/-- The value `PrngDraw()` returns (R161). -/
def State.drawValue (s : State) : Word := prngClamp (lcg s.seed)

/-- The state after `PrngDraw()`: the raw value is the new seed, or the clamped one where CLAMP_WB = 1 (R161). -/
def State.drawState (s : State) : State :=
  { s with seed := if s.cfg.clampWb then prngClamp (lcg s.seed) else lcg s.seed }

/-- SEED <- v (R163, R164). -/
def State.setSeed (s : State) (v : Word) : State := { s with seed := v }

/-! ### Reset -/

/-- The reset step (R240, R241, R242): every element of the block at its reset value, whatever was in flight discarded.
The build's parameters stay; what the outside world holds (its events, the responses it got) is no part of the block,
and the free-value counters only grow (log entry 20). -/
def State.hardReset (s : State) : State :=
  { State.powerOn s.cfg with
    pending := s.pending
    responses := s.responses
    draws := s.draws
    epoch := s.epoch + 1 }

end Sys2Proof.Machine
end

