-- ==== Sys2Proof/Machine/Bus.lean ====
section
/-! DEFINITION. The host window: address decode, reads, writes, issue, and one host access (spec/20_memory.md R50 to R57;
spec/10_state.md R40 to R49; spec/70_reset_and_hazards.md R243, R247). -/

namespace Sys2Proof.Machine

/-- The register at an offset (R54). A misaligned offset (R52) and a reserved one (R49) have none. -/
def regAt (off : BitVec 6) : Option Reg :=
  match off.toNat with
  | 0x00 => some .cmd
  | 0x04 => some .arg
  | 0x08 => some .res
  | 0x0C => some .status
  | 0x10 => some .cur
  | 0x14 => some .seed
  | 0x18 => some .stkcnt
  | 0x1C => some .geom
  | 0x20 => some .capr
  | _ => none

/-- GEOM: W in bits 15:0, H in bits 31:16 (R47). -/
def geomWord (p : Params) : Word := BitVec.ofNat 16 p.h ++ BitVec.ofNat 16 p.w

/-- CAPR (R48). -/
def caprWord (p : Params) : Word := BitVec.ofNat 32 p.cap

/-- The value a read of a register gives (R40 to R48). While BUSY = 1, CUR, SEED, STKCNT and the OVF bit of STATUS are
the next free value (R247). -/
def State.readValue (s : State) : Reg → Word
  | .cmd => 0
  | .arg => s.arg
  | .res => s.res
  | .status => s.statusWord (if s.busy then Config.freeFlag s.draws else s.ovf)
  | .cur => if s.busy then Config.freeLive s.draws else s.cur
  | .seed => if s.busy then Config.freeLive s.draws else s.seed
  | .stkcnt => if s.busy then Config.freeLive s.draws else s.cnt
  | .geom => geomWord s.cfg
  | .capr => caprWord s.cfg

/-- How many free values a read of a register draws: one for each live register while busy (R247). -/
def State.readDraws (s : State) : Reg → Nat
  | .status | .cur | .seed | .stkcnt => if s.busy then 1 else 0
  | .cmd | .arg | .res | .geom | .capr => 0

/-- A write of CMD: issue with the operand latched while INFL = none, else the command is dropped (R40, R243, R34). No
decoding happens here. -/
def State.writeCmd (s : State) (v : Word) : State :=
  if s.busy then { s with cmdLost := true } else { s with infl := .command v s.arg }

/-- A legal write of a register: CMD issues, ARG stores, bit 8 of STATUS clears CMDLOST, a write to a read-only register
is ignored (R40, R41, R43, R56). -/
def State.writeReg (s : State) (v : Word) : Reg → State
  | .cmd => s.writeCmd v
  | .arg => { s with arg := v }
  | .status => if v.getLsbD 8 then { s with cmdLost := false } else s
  | .res | .cur | .seed | .stkcnt | .geom | .capr => s

/-- The response to an access (R50 to R54, R56). -/
def State.response (s : State) : Access → Response
  | .read off =>
    match regAt off with
    | some r => .readOk (s.readValue r)
    | none => .readError
  | .write off _ strobe =>
    if strobe = 0xF#4 then
      match regAt off with
      | some _ => .writeOk
      | none => .writeError
    else .writeError

/-- What an access does to the block: a read nothing (R55; only the free-value counter moves), a legal write what its
register says, an access that gets ERROR nothing (R50). -/
def State.accessEffect (s : State) : Access → State
  | .read off =>
    match regAt off with
    | some r => { s with draws := s.draws + s.readDraws r }
    | none => s
  | .write off data strobe =>
    if strobe = 0xF#4 then
      match regAt off with
      | some r => s.writeReg data r
      | none => s
    else s

/-- One HOST step (R9, R50): the access and its response. -/
def State.hostAccess (s : State) (a : Access) : State :=
  { s.accessEffect a with responses := s.response a :: s.responses }

end Sys2Proof.Machine
end

