-- ==== Sys2Proof/Machine/Datapath.lean ====
section
/-! DEFINITION. The neighbor rule and the direction selection (spec/43_neighbor_carve.md section 1), which the commands
and the generator share. -/

namespace Sys2Proof.Machine

/-- One bit of the neighbor mask (R140): the bound test of the direction, and the probe two cells away uncarved. The
probe is read only when the bound test holds. -/
def State.probeOpen (s : State) (q : Pos) : Dir → Bool
  | .north => decide (s.cfg.nearMargin ≤ q.y) && !s.gridRead ⟨q.x, q.y - 2⟩
  | .east => decide (q.x + s.cfg.farMargin ≤ s.cfg.w) && !s.gridRead ⟨q.x + 2, q.y⟩
  | .south => decide (q.y + s.cfg.farMargin ≤ s.cfg.h) && !s.gridRead ⟨q.x, q.y + 2⟩
  | .west => decide (s.cfg.nearMargin ≤ q.x) && !s.gridRead ⟨q.x - 2, q.y⟩

/-- The mask of `Nbr(x, y)` (R140): bit 0 north, 1 east, 2 south, 3 west (R14). -/
def State.nbrMask (s : State) (q : Pos) : BitVec 4 :=
  BitVec.ofBool (s.probeOpen q .west) ++ BitVec.ofBool (s.probeOpen q .south) ++
    BitVec.ofBool (s.probeOpen q .east) ++ BitVec.ofBool (s.probeOpen q .north)

/-- `popcount` of a mask (R11, R140). -/
def maskCount (m : BitVec 4) : Nat :=
  (m.getLsbD 0).toNat + (m.getLsbD 1).toNat + (m.getLsbD 2).toNat + (m.getLsbD 3).toNat

/-- Is the direction's bit set in the mask (R14)? -/
def maskHas (m : BitVec 4) (d : Dir) : Bool := m.getLsbD (dirCode d).toNat

/-- The ordered list `L` of `Choose`: the set directions by ascending code (R141). -/
def openDirs (m : BitVec 4) : List Dir := [Dir.north, .east, .south, .west].filter (maskHas m)

/-- The divisor `q = 0xFFFFFFFF div cnt` (R141). -/
def chooseDivisor (cnt : Nat) : Nat := 0xFFFFFFFF / cnt

/-- The index `min(r div q, cnt - 1)` (R141). -/
def chooseIdx (cnt : Nat) (r : Word) : Nat := min (r.toNat / chooseDivisor cnt) (cnt - 1)

/-- The direction `L[idx]` (R141). The list has `cnt` entries, so the index is inside it; `getD`'s default is never
taken for a mask that is not 0. -/
def chooseDir (m : BitVec 4) (cnt : Nat) (r : Word) : Dir := (openDirs m).getD (chooseIdx cnt r) .north

end Sys2Proof.Machine
end

