-- ==== Sys2Proof/Machine/Ndc.lean ====
section
/-! DEFINITION. The neighbor and carve commands (spec/43_neighbor_carve.md R143 to R145). -/

namespace Sys2Proof.Machine

/-- NBR (R143). -/
def execNbr (s : State) : Host.Outcome State Fault Refusal :=
  if inGrid s.cfg s.posOperand then
    .next (s.setRes (resNbr (s.nbrMask s.posOperand) (maskCount (s.nbrMask s.posOperand)))).finish
  else .next (s.raiseError .range)

/-- PICK (R144): RANGE, then NODIR, then one draw. -/
def execPick (s : State) : Host.Outcome State Fault Refusal :=
  if inGrid s.cfg s.posOperand then
    if maskCount (s.nbrMask s.posOperand) = 0 then .next (s.raiseError .nodir)
    else
      .next (s.drawState.setRes (resPick (maskCount (s.nbrMask s.posOperand))
        (chooseIdx (maskCount (s.nbrMask s.posOperand)) s.drawValue)
        (chooseDir (s.nbrMask s.posOperand) (maskCount (s.nbrMask s.posOperand)) s.drawValue))).finish
  else .next (s.raiseError .range)

/-- The two writes of a carve step from `q` towards `d`: the intermediate cell and the destination cell (R145, R183). -/
def State.carveStep (s : State) (q : Pos) (d : Dir) : State :=
  (s.gridWrite (stepPos q d 1) true).gridWrite (stepPos q d 2) true

/-- CARVE (R145): the source cell is tested first, then the destination; both give RANGE. -/
def execCarve (d : Dir) (s : State) : Host.Outcome State Fault Refusal :=
  if inGrid s.cfg s.posOperand then
    if inGridAlong s.cfg s.posOperand d 2 then
      .next ((s.carveStep s.posOperand d).setRes (packPos (stepPos s.posOperand d 2))).finish
    else .next (s.raiseError .range)
  else .next (s.raiseError .range)

end Sys2Proof.Machine
end

