-- ==== Sys2Proof/Machine/Gen.lean ====
section
/-! DEFINITION. The generator and the control commands (spec/45_generator.md R180 to R187). -/

namespace Sys2Proof.Machine

/-- `OvfAbort()` (R184). -/
def State.ovfAbort (s : State) : Bool :=
  match s.cfg.ovfAbortMode with
  | .sticky => s.ovf
  | .count => decide (s.cfg.cap < s.cnt.toNat)

/-- One iteration of the inner loop of R183 at a position whose mask is not 0: push, draw, choose, carve two cells. -/
def State.extendState (s : State) (q : Pos) (d : Dir) : State := ((s.stkPush (packPos q)).drawState).carveStep q d

/-- The direction an inner iteration takes where the mask is `m` (R183). The push before the draw changes neither the
seed nor the mask. -/
def State.extendDir (s : State) (m : BitVec 4) : Dir := chooseDir m (maskCount m) s.drawValue

/-- The inner loop of R183, `while cnt > 0`: extend the path until no neighbor is open. The first argument bounds the
iterations; R188 says `W*H - 1` is enough (log entry 8). -/
def extendLoop : Nat → State → Pos → State × Pos
  | 0, s, q => (s, q)
  | n + 1, s, q =>
    let m := s.nbrMask q
    if maskCount m = 0 then (s, q)
    else
      let d := s.extendDir m
      extendLoop n (s.extendState q d) (stepPos q d 2)

/-- How a generation's outer loop ended: the state, the position, and DONE or OVERFLOW. -/
structure GenExit where
  state : State
  pos : Pos
  result : GenState
  deriving DecidableEq, Repr

/-- The outer loop of R183, `while CNT > 0`: the abort test, the inner loop, one pop. The second argument bounds the
iterations; R188 says `W*H` of them and the last test are enough (log entry 8). -/
def generateLoop (inner : Nat) : Nat → State → Pos → GenExit
  | 0, s, q => ⟨s, q, .done⟩
  | n + 1, s, q =>
    if s.cnt = 0 then ⟨s, q, .done⟩
    else if s.ovfAbort then ⟨s, q, .overflow⟩
    else
      let e := extendLoop inner s q
      generateLoop inner n e.1.popState (unpackPos e.1.popValue)

/-- Step 1 of `Generate` (R183): clear the grid, reset the stack, carve and push the start. -/
def State.generateStart (s : State) (q : Pos) : State :=
  ((s.gridClear.stkReset).gridWrite q true).stkPush (packPos q)

/-- The loop of `Generate` from its start (R183), with the iteration bounds of R188. -/
def State.generateExit (s : State) (q : Pos) : GenExit :=
  generateLoop (s.cfg.w * s.cfg.h) (s.cfg.w * s.cfg.h + 1) (s.generateStart q) q

/-- ERR of a generation: OK if it ended in DONE, else STKOVF (R183, R213). -/
def genErr : GenState → ErrCode
  | .done => .ok
  | .idle | .carving | .overflow => .stkovf

/-- `Generate(sx, sy)` (R183) with the completion it ends in: CUR, STATE_R and ERR; RES is not written. -/
def State.generate (s : State) (q : Pos) : State :=
  let e := s.generateExit q
  ({ e.state with cur := packPos e.pos, stateR := e.result } : State).complete (genErr e.result)

/-- The centre cell of GEN_CENTER (R186). -/
def centerPos (p : Params) : Pos := ⟨p.w / 2, p.h / 2⟩

/-- NOP (R181): nothing but the completion itself. -/
def execNop (s : State) : Host.Outcome State Fault Refusal := .next s.finish

/-- GEN_RUN (R182). -/
def execGenRun (s : State) : Host.Outcome State Fault Refusal :=
  if inGrid s.cfg s.posOperand then .next (s.generate s.posOperand) else .next (s.raiseError .range)

/-- GEN_CENTER (R186). -/
def execGenCenter (s : State) : Host.Outcome State Fault Refusal := .next (s.generate (centerPos s.cfg))

/-- STATE_R <- v (R29). -/
def State.setStateR (s : State) (v : GenState) : State := { s with stateR := v }

/-- GEN_ACK (R187). -/
def execGenAck (s : State) : Host.Outcome State Fault Refusal := .next (s.setStateR .idle).finish

end Sys2Proof.Machine
end

