-- ==== Sys2Proof/Machine/Grid.lean ====
section
/-! DEFINITION. The GRID commands (spec/41_grid.md R101 to R104). -/

namespace Sys2Proof.Machine

/-- GRID_CLEAR (R101). -/
def execGridClear (s : State) : Host.Outcome State Fault Refusal := .next s.gridClear.finish

/-- GRID_READ (R102). -/
def execGridRead (s : State) : Host.Outcome State Fault Refusal :=
  if inGrid s.cfg s.posOperand then .next (s.setRes (resBit (s.gridRead s.posOperand))).finish
  else .next (s.raiseError .range)

/-- GRID_WRITE (R103). -/
def execGridWrite (v : Bool) (s : State) : Host.Outcome State Fault Refusal :=
  if inGrid s.cfg s.posOperand then .next (s.gridWrite s.posOperand v).finish
  else .next (s.raiseError .range)

/-- GRID_RDWORD (R104): RANGE iff `y >= H or k >= WPR`. -/
def execGridRdword (s : State) : Host.Outcome State Fault Refusal :=
  if decide (s.wordOperandY < s.cfg.h) && decide (s.wordOperandK < wpr s.cfg) then
    .next (s.setRes (s.gridWord (s.wordOperandY * wpr s.cfg + s.wordOperandK))).finish
  else .next (s.raiseError .range)

end Sys2Proof.Machine
end

