-- ==== Sys2Proof/Machine/Prng.lean ====
section
/-! DEFINITION. The PRNG commands (spec/44_prng.md R162 to R164). -/

namespace Sys2Proof.Machine

/-- PRNG_NEXT (R162). -/
def execPrngNext (s : State) : Host.Outcome State Fault Refusal := .next (s.drawState.setRes s.drawValue).finish

/-- PRNG_TICK (R163). -/
def execPrngTick (s : State) : Host.Outcome State Fault Refusal := .next (s.setSeed (s.seed + 1)).finish

/-- PRNG_SEED (R164). -/
def execPrngSeed (s : State) : Host.Outcome State Fault Refusal := .next (s.setSeed s.operand).finish

end Sys2Proof.Machine
end

