-- ==== Sys2Proof/Machine/Stack.lean ====
section
/-! DEFINITION. The STACK commands (spec/42_stack.md R122 to R125). -/

namespace Sys2Proof.Machine

/-- STK_RESET (R122). -/
def execStkReset (s : State) : Host.Outcome State Fault Refusal := .next s.stkReset.finish

/-- STK_PUSH (R123). IDX is in 0..CAP-1 in every state the spec describes (R24); elsewhere the slot does not exist (log
entry 12). -/
def execStkPush (s : State) : Host.Outcome State Fault Refusal :=
  if s.idx < s.cfg.cap then .next (s.stkPush s.operand).finish else .fault .slotOutside

/-- STK_POP (R124): EMPTY if CNT = 0. IDX as for STK_PUSH. -/
def execStkPop (s : State) : Host.Outcome State Fault Refusal :=
  match s.stkPop with
  | none => .next (s.raiseError .empty)
  | some (v, t) => if s.idx < s.cfg.cap then .next (t.setRes v).finish else .fault .slotOutside

/-- STK_SIZE (R125). -/
def execStkSize (s : State) : Host.Outcome State Fault Refusal := .next (s.setRes s.cnt).finish

end Sys2Proof.Machine
end

