-- ==== Sys2Proof/Machine/Dispatch.lean ====
section
/-! DEFINITION. One arm per command: the whole completion step of a legal command word
(spec/70_reset_and_hazards.md R244). -/

namespace Sys2Proof.Machine

def exec (i : Instr) (s : State) : Host.Outcome State Fault Refusal :=
  match i with
  | .nop => Sys2Proof.Machine.execNop s
  | .gridClear => Sys2Proof.Machine.execGridClear s
  | .gridRead => Sys2Proof.Machine.execGridRead s
  | .gridWrite v => Sys2Proof.Machine.execGridWrite v s
  | .gridRdword => Sys2Proof.Machine.execGridRdword s
  | .stkReset => Sys2Proof.Machine.execStkReset s
  | .stkPush => Sys2Proof.Machine.execStkPush s
  | .stkPop => Sys2Proof.Machine.execStkPop s
  | .stkSize => Sys2Proof.Machine.execStkSize s
  | .nbr => Sys2Proof.Machine.execNbr s
  | .pick => Sys2Proof.Machine.execPick s
  | .carve d => Sys2Proof.Machine.execCarve d s
  | .prngNext => Sys2Proof.Machine.execPrngNext s
  | .prngTick => Sys2Proof.Machine.execPrngTick s
  | .prngSeed => Sys2Proof.Machine.execPrngSeed s
  | .genRun => Sys2Proof.Machine.execGenRun s
  | .genCenter => Sys2Proof.Machine.execGenCenter s
  | .genAck => Sys2Proof.Machine.execGenAck s

end Sys2Proof.Machine
end

