-- ==== Sys2Proof/Machine/Completion.lean ====
section
/-! DEFINITION. The SEQ step: the completion of the command in flight (spec/70_reset_and_hazards.md R244), and how one
event of the outside world is taken (spec/00_scope.md R9). -/

namespace Sys2Proof.Machine

/-- The completion of a command word (R244): ILLEGAL for a word that is no command, else the command's rule. -/
def completeWord (c : Word) (s : State) : Host.Outcome State Fault Refusal :=
  match decode c with
  | .ok i => exec i s
  | .error _ => .next (s.raiseError .illegal)

/-- The SEQ step (R244): enabled iff INFL is not none; RESET_CLEAR only ends (R241). Where it is not enabled nothing
happens (log entry 9). -/
def seqStep (s : State) : Host.Outcome State Fault Refusal :=
  match s.infl with
  | .none => .next s
  | .resetClear => .next { s with infl := .none }
  | .command c _ => completeWord c s

/-- One event (R9, R62). -/
def takeEvent (e : Event) (s : State) : Host.Outcome State Fault Refusal :=
  match e with
  | .host a => .next (s.hostAccess a)
  | .seq => seqStep s
  | .reset => .next s.hardReset

/-- The next event in store, or the SEQ step where there is none (R248). -/
def nextStep (s : State) : Host.Outcome State Fault Refusal :=
  match s.pending with
  | [] => seqStep s
  | e :: rest => takeEvent e { s with pending := rest }

/-- The command word of `nbits` bits `w`, accepted while the block was ready: in flight with the ARG value latched, and
its completion the next event (R243, R244; log entry 16). -/
def State.placeWord (s : State) (nbits w : Nat) : State :=
  { s with infl := .command (BitVec.ofNat 32 (w % 2 ^ nbits)) s.arg, pending := .seq :: s.pending }

end Sys2Proof.Machine
end

