-- ==== Sys2Proof/Machine/Step.lean ====
section
/-! DEFINITION. One step of the machine, and the placing of a command where the next step runs it. -/

namespace Sys2Proof.Machine

/-- One step: a build outside R8 is refused; otherwise the next event (R9). -/
def step (s : State) : Host.Outcome State Fault Refusal :=
  if s.cfg.legal then nextStep s else .refused .illegalBuild

/-- The state in which the very next step runs the command of `nbits` bits `w`. -/
def State.withFetchWord (s : State) (nbits w : Nat) : State := s.placeWord nbits w

end Sys2Proof.Machine
end

