-- ==== Sys2Proof/Safety.lean ====
section
/-! DEFINITION. What a safe machine is, in the terms the statements use: the invariants the spec gives the state
(spec/10_state.md R20 to R29, spec/42_stack.md) and the absence of a stop. -/

namespace Sys2Proof.Machine

/-- A step answers a next state: no fault and no refusal. -/
def State.goesOn (s : State) : Prop := ∃ t, step s = .next t

/-- Bit `b` of a grid word is a pad bit of the word `k` of a row (R22): its cell would lie at or beyond W. -/
def isPadBit (p : Params) (k b : Nat) : Prop := p.w ≤ 32 * k + b

/-- Every pad bit is 0 (R22). -/
def State.padZero (s : State) : Prop :=
  ∀ y k b, y < s.cfg.h → k < wpr s.cfg → b < 32 → isPadBit s.cfg k b →
    (s.gridWord (y * wpr s.cfg + k)).getLsbD b = false

/-- The grid storage is in canonical form, inside its NWORDS words, with every pad bit 0 (R20 to R22, R58). -/
structure GridInv (s : State) : Prop where
  legal : s.cfg.legal = true
  canonical : Memory.wf (some 0) s.grid = true
  within : Memory.within (nwords s.cfg) s.grid = true
  pads : s.padZero

/-- Slot `i` has been written since reset: all its bytes are listed (R23). -/
def State.slotWritten (s : State) (i : Nat) : Prop :=
  ∀ b, b < 4 → (Memory.find? s.slots (4 * i + b)).isSome = true

/-- The slot that the pop number `i` (from 0) of the next pops reads: `i + 1` places behind IDX, around the ring of CAP
slots (R121). -/
def State.liveSlot (s : State) (i : Nat) : Nat := (s.idx + s.cfg.cap - 1 - i) % s.cfg.cap

/-- The stack storage is in canonical form and inside its CAP slots, IDX names a slot, a count above CAP shows in OVF,
and every slot a pop can read has been written (R20, R23 to R26). -/
structure StackInv (s : State) : Prop where
  legal : s.cfg.legal = true
  canonical : Memory.wf none s.slots = true
  within : Memory.within s.cfg.cap s.slots = true
  idxInRing : s.idx < s.cfg.cap
  overSeen : s.cfg.cap < s.cnt.toNat → s.ovf = true
  liveWritten : ∀ i, i < s.cnt.toNat → i < s.cfg.cap → s.slotWritten (s.liveSlot i)

/-- The stack holds the words of `l`, the most recently pushed first, and has not overflowed: what an unbounded stack
would hold (R127). -/
def State.representsStack (s : State) (l : List Word) : Prop :=
  s.idx < s.cfg.cap ∧ l.length ≤ s.cfg.cap ∧ s.cnt.toNat = l.length ∧
    ∀ i v, l[i]? = some v → s.slot (s.liveSlot i) = v

/-- The cells of the grid that satisfy `p`, counted. -/
def countCells (c : Params) (p : Pos → Bool) : Nat :=
  ((Finset.range c.w ×ˢ Finset.range c.h).filter (fun z => p ⟨z.1, z.2⟩ = true)).card

/-- A lattice cell of the start `q`: its parity in x and in y (spec/00_scope.md, glossary; R189). -/
def onLattice (q r : Pos) : Bool := decide (r.x % 2 = q.x % 2) && decide (r.y % 2 = q.y % 2)

/-- An edge of the maze of the carved cells `g`: two cells of the grid two apart, both carved, with the cell between them
carved (R145, R189). -/
def mazeEdge (p : Params) (g : Pos → Bool) (q r : Pos) : Prop :=
  ∃ d, inGrid p q = true ∧ inGridAlong p q d 2 = true ∧ r = stepPos q d 2 ∧ g q = true ∧ g (stepPos q d 1) = true ∧
    g r = true

/-- The next step is the SEQ step: stored as the next event, or taken by itself where none is in store (R9, R248). -/
def State.seqNext (s : State) : Prop := s.pending = [] ∨ ∃ rest, s.pending = .seq :: rest

/-- The next step is the completion of a command of the given list: the SEQ step comes next, and the command in flight
is one of the list (R244). -/
def State.completing (s : State) (l : List Instr) : Prop :=
  s.seqNext ∧ ∃ c a i, s.infl = .command c a ∧ decode c = .ok i ∧ i ∈ l

/-- The next event is a reset. -/
def State.resetNext (s : State) : Prop := ∃ rest, s.pending = .reset :: rest

/-- STATE_R never holds CARVING (R29). -/
def State.stateRLegal (s : State) : Prop := s.stateR ≠ .carving

end Sys2Proof.Machine
end

