-- ==== Sys2Proof/Certificates/Slice0/Obligations.lean ====
section
/-! DEFINITION. The statements for the provers, from the numbered rules of spec/. A next state is given as the old state
with the fields the rule writes, so everything not named is unchanged; where a command stores to the grid or the slots,
the bytes outside the stored words are said to read as before. -/

open Sys2Proof Sys2Proof.Machine

/-! ### Encoding and the step -/

/-- The decoder reads exactly the words the encoder writes: no bit of a word is dropped (R80 to R84). -/
def Obligations.DecodeAndEncodeAgree : Prop :=
  (∀ i : Instr, decode (encode i) = .ok i) ∧ ∀ (c : Word) (i : Instr), decode c = .ok i → encode i = c

/-- R83: the exact word of every command; every other word is illegal. -/
def Obligations.ExactWordsOfEveryCommand : Prop :=
  ∀ c : Word,
    (decode c = .ok .nop ↔ c = 0x00000000) ∧ (decode c = .ok .gridClear ↔ c = 0x00000001) ∧
    (decode c = .ok .gridRead ↔ c = 0x00000002) ∧ (decode c = .ok .gridRdword ↔ c = 0x00000004) ∧
    (decode c = .ok (.gridWrite false) ↔ c = 0x00000003) ∧ (decode c = .ok (.gridWrite true) ↔ c = 0x00000103) ∧
    (∀ v, decode c = .ok (.gridWrite v) → c &&& 0xFFFFFEFF = 0x00000003 ∧ v = c.getLsbD 8) ∧
    (decode c = .ok .stkReset ↔ c = 0x00000008) ∧ (decode c = .ok .stkPush ↔ c = 0x00000009) ∧
    (decode c = .ok .stkPop ↔ c = 0x0000000A) ∧ (decode c = .ok .stkSize ↔ c = 0x0000000B) ∧
    (decode c = .ok .nbr ↔ c = 0x00000010) ∧ (decode c = .ok .pick ↔ c = 0x00000011) ∧
    (decode c = .ok (.carve .north) ↔ c = 0x00000012) ∧ (decode c = .ok (.carve .east) ↔ c = 0x00000212) ∧
    (decode c = .ok (.carve .south) ↔ c = 0x00000412) ∧ (decode c = .ok (.carve .west) ↔ c = 0x00000612) ∧
    (∀ d, decode c = .ok (.carve d) → c &&& 0xFFFFF9FF = 0x00000012 ∧ dirCode d = c.extractLsb' 9 2) ∧
    (decode c = .ok .prngNext ↔ c = 0x00000018) ∧ (decode c = .ok .prngTick ↔ c = 0x00000019) ∧
    (decode c = .ok .prngSeed ↔ c = 0x0000001A) ∧ (decode c = .ok .genRun ↔ c = 0x00000020) ∧
    (decode c = .ok .genCenter ↔ c = 0x00000021) ∧ (decode c = .ok .genAck ↔ c = 0x00000022) ∧
    ((∃ e, decode c = .error e) ↔ c ∉ [0x00000000, 0x00000001, 0x00000002, 0x00000003, 0x00000103, 0x00000004,
      0x00000008, 0x00000009, 0x0000000A, 0x0000000B, 0x00000010, 0x00000011, 0x00000012, 0x00000212, 0x00000412,
      0x00000612, 0x00000018, 0x00000019, 0x0000001A, 0x00000020, 0x00000021, 0x00000022])

/-- R85: which words are legal; an illegal word is issued like any other, and its completion raises ILLEGAL with no other
effect, whether the SEQ step comes by itself or as a stored event. -/
def Obligations.IllegalWordsCompleteWithIllegal : Prop :=
  (∀ c : Word, (∃ i, decode c = .ok i) ↔
    (c.extractLsb' 11 21 = 0 ∧
      c.extractLsb' 0 8 ∈ ([0x00, 0x01, 0x02, 0x03, 0x04, 0x08, 0x09, 0x0A, 0x0B, 0x10, 0x11, 0x12, 0x18, 0x19, 0x1A,
        0x20, 0x21, 0x22] : List (BitVec 8)) ∧
      (c.extractLsb' 0 8 ≠ 0x03 → c.getLsbD 8 = false) ∧ (c.extractLsb' 0 8 ≠ 0x12 → c.extractLsb' 9 2 = 0))) ∧
  (∀ (s : State) (c : Word), s.infl = .none → s.writeCmd c = { s with infl := .command c s.arg }) ∧
  ∀ (s : State) (c a : Word), s.cfg.legal = true → s.infl = .command c a → (¬ ∃ i, decode c = .ok i) →
    (s.pending = [] → step s = .next { s with err := .illegal, infl := .none }) ∧
    (∀ rest, s.pending = .seq :: rest → step s = .next { s with pending := rest, err := .illegal, infl := .none })

/-- A few words written out from the encodings of R83 decode to their commands, and one with a stray D to none. -/
def Obligations.SampleWordsDecode : Prop :=
  decode 0b00000000000000000000000100000011#32 = .ok (.gridWrite true) ∧
  decode 0b00000000000000000000011000010010#32 = .ok (.carve .west) ∧
  decode 0b00000000000000000000000000001001#32 = .ok .stkPush ∧
  decode 0b00000000000000000000000000011000#32 = .ok .prngNext ∧
  decode 0b00000000000000000000000000100000#32 = .ok .genRun ∧
  ∃ e, decode 0b00000000000000000000001000000010#32 = .error e

/-- Where a legal command word is in flight, the SEQ step is the meaning of the decoded command (R244): taken by itself
when no event is in store, and at a stored `seq` event with that event taken off. -/
def Obligations.StepRunsTheDecodedCommand : Prop :=
  ∀ (s : State) (c a : Word) (i : Instr), s.cfg.legal = true → s.infl = .command c a → decode c = .ok i →
    (s.pending = [] → step s = exec i s) ∧
    (∀ rest, s.pending = .seq :: rest → step s = exec i { s with pending := rest })

/-- The events of the outside world are taken in order (R9, R62); with none in store and nothing in flight the block
stays as it is. The order and the idle step are the model's choice (log entries 2 and 9). -/
def Obligations.StepTakesTheNextEvent : Prop :=
  ∀ (s : State) (rest : List Event), s.cfg.legal = true →
    (∀ a, s.pending = .host a :: rest → step s = .next (State.hostAccess { s with pending := rest } a)) ∧
    (s.pending = .reset :: rest → step s = .next (State.hardReset { s with pending := rest })) ∧
    (s.pending = .seq :: rest → s.infl = .none → step s = .next { s with pending := rest }) ∧
    (s.pending = [] → s.infl = .none → step s = .next s)

/-- A placed command word is what the very next step runs, whatever state it is placed in (the model's choice, log entry
16). -/
def Obligations.PlacedWordRunsNext : Prop :=
  ∀ (s : State) (i : Instr), s.cfg.legal = true →
    step (s.withFetchWord 32 (encode i).toNat) = exec i { s with infl := .command (encode i) s.arg }

/-- A build outside the ranges of R8 is refused at every step, and a legal one never is. -/
def Obligations.OnlyLegalBuildsRun : Prop :=
  ∀ s : State,
    (step s = .refused .illegalBuild ↔
      ¬ ((1 ≤ s.cfg.w ∧ s.cfg.w ≤ 65535) ∧ (1 ≤ s.cfg.h ∧ s.cfg.h ≤ 65535) ∧ (1 ≤ s.cfg.cap ∧ s.cfg.cap ≤ 2 ^ 24) ∧
        2 ≤ s.cfg.nearMargin ∧ 3 ≤ s.cfg.farMargin))

/-- R87, R13: the operand of a command in flight is the latched word; a Position is its low and high half, and packing
is the inverse. -/
def Obligations.OperandIsTheLatchedWord : Prop :=
  (∀ (s : State) (c a : Word), s.infl = .command c a → s.operand = a ∧
    s.posOperand = ⟨a.toNat % 65536, a.toNat / 65536⟩ ∧ s.wordOperandK = a.toNat % 65536 ∧
    s.wordOperandY = a.toNat / 65536) ∧
  (∀ w : Word, packPos (unpackPos w) = w) ∧
  ∀ q : Pos, q.x < 65536 → q.y < 65536 → unpackPos (packPos q) = q ∧ (packPos q).toNat = q.y * 65536 + q.x

/-- The codes of R14, R29 and R211, and the unit vectors of R14. -/
def Obligations.CodesOfDirectionsStatesAndErrors : Prop :=
  ([Dir.north, .east, .south, .west].map (fun d => (dirCode d, unitX d, unitY d)) =
    [(0, 0, -1), (1, 1, 0), (2, 0, 1), (3, -1, 0)]) ∧
  ([GenState.idle, .carving, .done, .overflow].map genStateCode = [0, 1, 2, 3]) ∧
  ([ErrCode.ok, .illegal, .range, .empty, .nodir, .stkovf].map errCode = [0, 1, 2, 3, 4, 5])

/-! ### GRID -/

/-- R101: every grid word is 0 after GRID_CLEAR, which writes nothing else but the completion. -/
def Obligations.GridClearZeroesEveryWord : Prop :=
  decode 0x00000001 = .ok .gridClear ∧
  ∀ s : State, ∃ t, exec .gridClear s = .next t ∧ (∀ a, t.gridWord a = 0) ∧
    t = { s with grid := t.grid, err := .ok, infl := .none }

/-- R102: GRID_READ answers the cell's bit, or RANGE; nothing else changes. -/
def Obligations.GridReadAnswersTheCell : Prop :=
  decode 0x00000002 = .ok .gridRead ∧
  ∀ (s : State) (x y : Nat), unpackPos s.operand = ⟨x, y⟩ →
    (x < s.cfg.w ∧ y < s.cfg.h → exec .gridRead s = .next { s with
      res := if (s.gridWord (y * ((s.cfg.w + 31) / 32) + x / 32)).getLsbD (x % 32) then 1 else 0
      err := .ok
      infl := .none }) ∧
    (s.cfg.w ≤ x ∨ s.cfg.h ≤ y → exec .gridRead s = .next { s with err := .range, infl := .none })

/-- R103: GRID_WRITE sets its cell and no other, keeps the other 31 bits of the cell's word and every other byte, or
answers RANGE. -/
def Obligations.GridWriteSetsOneCell : Prop :=
  decode 0x00000003 = .ok (.gridWrite false) ∧ decode 0x00000103 = .ok (.gridWrite true) ∧
  ∀ (s : State) (v : Bool) (x y a : Nat), unpackPos s.operand = ⟨x, y⟩ → a = y * ((s.cfg.w + 31) / 32) + x / 32 →
    (x < s.cfg.w ∧ y < s.cfg.h → ∃ t, exec (.gridWrite v) s = .next t ∧
      (∀ r : Pos, r.x < s.cfg.w → r.y < s.cfg.h → t.gridRead r = if r = ⟨x, y⟩ then v else s.gridRead r) ∧
      (∀ j, j < 32 → (t.gridWord a).getLsbD j = if j = x % 32 then v else (s.gridWord a).getLsbD j) ∧
      (∀ k, k < 4 * a ∨ 4 * a + 4 ≤ k → t.gridByte k = s.gridByte k) ∧
      (s.gridRead ⟨x, y⟩ = v → ∀ k, t.gridByte k = s.gridByte k) ∧
      t = { s with grid := t.grid, err := .ok, infl := .none }) ∧
    (s.cfg.w ≤ x ∨ s.cfg.h ≤ y → exec (.gridWrite v) s = .next { s with err := .range, infl := .none })

/-- R104: GRID_RDWORD answers the packed word k of row y, whose pad bits are 0 by the grid invariant, or RANGE. -/
def Obligations.GridRdwordAnswersThePackedWord : Prop :=
  decode 0x00000004 = .ok .gridRdword ∧
  ∀ (s : State) (k y : Nat), k = (s.operand.extractLsb' 0 16).toNat → y = (s.operand.extractLsb' 16 16).toNat →
    (y < s.cfg.h ∧ k < (s.cfg.w + 31) / 32 → exec .gridRdword s = .next { s with
      res := s.gridWord (y * ((s.cfg.w + 31) / 32) + k), err := .ok, infl := .none }) ∧
    (y < s.cfg.h ∧ k < (s.cfg.w + 31) / 32 → GridInv s → ∀ b, b < 32 → s.cfg.w ≤ 32 * k + b →
      (s.gridWord (y * ((s.cfg.w + 31) / 32) + k)).getLsbD b = false) ∧
    (s.cfg.h ≤ y ∨ (s.cfg.w + 31) / 32 ≤ k → exec .gridRdword s = .next { s with err := .range, infl := .none })

/-! ### STACK -/

/-- R122: STK_RESET empties the stack, clears OVF and leaves the slots. -/
def Obligations.StkResetEmptiesTheStack : Prop :=
  decode 0x00000008 = .ok .stkReset ∧
  ∀ s : State, exec .stkReset s = .next { s with idx := 0, cnt := 0, ovf := false, err := .ok, infl := .none }

/-- R120, R123: STK_PUSH writes the slot IDX names, advances IDX around the ring, counts modulo 2^32 and makes OVF
sticky; no other slot byte changes. -/
def Obligations.StkPushWritesTheSlotAtIdx : Prop :=
  decode 0x00000009 = .ok .stkPush ∧
  ∀ s : State, s.idx < s.cfg.cap → ∃ t, exec .stkPush s = .next t ∧
    t.slot s.idx = s.operand ∧ (∀ i, i ≠ s.idx → t.slot i = s.slot i) ∧
    (∀ k, k < 4 * s.idx ∨ 4 * s.idx + 4 ≤ k → t.slotByte k = s.slotByte k) ∧
    t.idx = (s.idx + 1) % s.cfg.cap ∧ t.cnt.toNat = (s.cnt.toNat + 1) % 2 ^ 32 ∧
    (t.ovf = true ↔ s.ovf = true ∨ s.cfg.cap < t.cnt.toNat) ∧
    t = { s with slots := t.slots, idx := t.idx, cnt := t.cnt, ovf := t.ovf, err := .ok, infl := .none }

/-- R121, R124: STK_POP steps IDX back, answers the slot it then names and leaves OVF; with CNT = 0 it answers EMPTY
with IDX, CNT and RES unchanged. -/
def Obligations.StkPopAnswersTheSlotBehindIdx : Prop :=
  decode 0x0000000A = .ok .stkPop ∧
  ∀ s : State,
    (s.cnt = 0 → exec .stkPop s = .next { s with err := .empty, infl := .none }) ∧
    (s.cnt ≠ 0 → s.idx < s.cfg.cap → exec .stkPop s = .next { s with
      idx := (s.idx + s.cfg.cap - 1) % s.cfg.cap
      cnt := BitVec.ofNat 32 (s.cnt.toNat - 1)
      res := s.slot ((s.idx + s.cfg.cap - 1) % s.cfg.cap)
      err := .ok
      infl := .none })

/-- R125: STK_SIZE answers CNT, which a read of STKCNT answers too while the block is ready. -/
def Obligations.StkSizeAnswersTheCount : Prop :=
  decode 0x0000000B = .ok .stkSize ∧
  ∀ s : State, exec .stkSize s = .next { s with res := s.cnt, err := .ok, infl := .none } ∧
    (s.infl = .none → s.response (.read 0x18) = .readOk s.cnt)

/-- In a state whose IDX names no slot, which no run reaches, a push and a pop of a non-empty stack stop by name (the
model's choice, log entry 12). -/
def Obligations.StackStopsWhereIdxNamesNoSlot : Prop :=
  ∀ s : State, s.cfg.cap ≤ s.idx →
    exec .stkPush s = .fault .slotOutside ∧ (s.cnt ≠ 0 → exec .stkPop s = .fault .slotOutside)

/-- R126: a pop answers `S[IDX]` after the decrement; after P pushes on an empty stack, pop number i returns push number
P - ((i - 1) mod CAP), and OVF is set iff P > CAP. -/
def Obligations.PopsAfterOverflowAlias : Prop :=
  (∀ u : State, u.idx < u.cfg.cap → exec .stkPush u = .next (u.stkPush u.operand).finish ∧
    (u.cnt ≠ 0 → exec .stkPop u = .next (u.popState.setRes u.popValue).finish ∧
      u.popValue = u.slot ((u.idx + u.cfg.cap - 1) % u.cfg.cap))) ∧
  ∀ (s : State) (vs : List Word) (i : Nat), s.cfg.legal = true → vs.length < 2 ^ 32 → 1 ≤ i → i ≤ vs.length →
    let t := vs.foldl State.stkPush s.stkReset
    (t.ovf = true ↔ s.cfg.cap < vs.length) ∧
    vs[vs.length - ((i - 1) % s.cfg.cap) - 1]? = some (State.popState^[i - 1] t).popValue

/-- R127: a stack that has not overflowed behaves as an unbounded one, step by step, whatever other commands and host
accesses come between. -/
def Obligations.StackIsLifoWithoutOverflow : Prop :=
  (∀ s t : State, s.cfg.legal = true → exec .stkReset s = .next t → t.representsStack []) ∧
  (∀ (s : State) (l : List Word), s.representsStack l → s.cfg.legal = true → l.length < s.cfg.cap →
    ∃ t, exec .stkPush s = .next t ∧ t.representsStack (s.operand :: l) ∧ t.ovf = s.ovf) ∧
  (∀ (s : State) (v : Word) (l : List Word), s.representsStack (v :: l) → s.cfg.legal = true →
    ∃ t, exec .stkPop s = .next t ∧ t.res = v ∧ t.err = .ok ∧ t.representsStack l) ∧
  (∀ s : State, s.representsStack [] → ∃ t, exec .stkPop s = .next t ∧ t.err = .empty ∧ t.representsStack []) ∧
  (∀ (i : Instr) (s t : State) (l : List Word),
    i ∉ [Instr.stkReset, .stkPush, .stkPop, .genRun, .genCenter] → exec i s = .next t →
    s.representsStack l → t.representsStack l) ∧
  (∀ (s : State) (e : ErrCode) (l : List Word), s.representsStack l → (s.raiseError e).representsStack l) ∧
  (∀ (s : State) (a : Access) (l : List Word), s.representsStack l → (s.hostAccess a).representsStack l)

/-! ### NDC -/

/-- R140, R143: NBR answers the neighbor mask and its population, or RANGE; nothing else changes. -/
def Obligations.NbrAnswersMaskAndCount : Prop :=
  decode 0x00000010 = .ok .nbr ∧
  ∀ (s : State) (x y : Nat), unpackPos s.operand = ⟨x, y⟩ →
    (x < s.cfg.w ∧ y < s.cfg.h → ∃ m : BitVec 4,
      (m.getLsbD 0 = true ↔ s.cfg.nearMargin ≤ y ∧ s.gridRead ⟨x, y - 2⟩ = false) ∧
      (m.getLsbD 1 = true ↔ x + s.cfg.farMargin ≤ s.cfg.w ∧ s.gridRead ⟨x + 2, y⟩ = false) ∧
      (m.getLsbD 2 = true ↔ y + s.cfg.farMargin ≤ s.cfg.h ∧ s.gridRead ⟨x, y + 2⟩ = false) ∧
      (m.getLsbD 3 = true ↔ s.cfg.nearMargin ≤ x ∧ s.gridRead ⟨x - 2, y⟩ = false) ∧
      exec .nbr s = .next { s with
        res := BitVec.ofNat 32 (((List.range 4).filter (fun b => m.getLsbD b)).length * 256 + m.toNat)
        err := .ok
        infl := .none }) ∧
    (s.cfg.w ≤ x ∨ s.cfg.h ≤ y → exec .nbr s = .next { s with err := .range, infl := .none })

/-- R144, R141: PICK answers RANGE, then NODIR, and otherwise draws once and answers the chosen direction, its index and
the count; SEED advances exactly once on success and not at all on an error. -/
def Obligations.PickDrawsOneOpenDirection : Prop :=
  decode 0x00000011 = .ok .pick ∧
  ∀ (s : State) (q : Pos), unpackPos s.operand = q →
    (s.cfg.w ≤ q.x ∨ s.cfg.h ≤ q.y → exec .pick s = .next { s with err := .range, infl := .none }) ∧
    (q.x < s.cfg.w ∧ q.y < s.cfg.h → s.nbrMask q = 0 → exec .pick s = .next { s with err := .nodir, infl := .none }) ∧
    (q.x < s.cfg.w ∧ q.y < s.cfg.h → s.nbrMask q ≠ 0 →
      let l := [Dir.north, .east, .south, .west].filter (fun d => (s.nbrMask q).getLsbD (dirCode d).toNat)
      let raw := (1103515245 * s.seed.toNat + 12345) % 2 ^ 32
      let r := min raw 0xFFFFFFFB
      let idx := min (r / (0xFFFFFFFF / l.length)) (l.length - 1)
      ∃ d, l[idx]? = some d ∧ exec .pick s = .next { s with
        res := BitVec.ofNat 32 (l.length * 256 + idx * 16 + (dirCode d).toNat)
        seed := BitVec.ofNat 32 (if s.cfg.clampWb then r else raw)
        err := .ok
        infl := .none })

/-- R145: CARVE carves the intermediate and the destination cell and no other and answers the destination, or RANGE;
every byte outside the two cells' words reads as before. -/
def Obligations.CarveCarvesTwoCells : Prop :=
  decode 0x00000012 = .ok (.carve .north) ∧ decode 0x00000212 = .ok (.carve .east) ∧
  decode 0x00000412 = .ok (.carve .south) ∧ decode 0x00000612 = .ok (.carve .west) ∧
  ∀ (s : State) (d : Dir) (x y : Nat) (x1 y1 x2 y2 : Int), unpackPos s.operand = ⟨x, y⟩ →
    x1 = x + unitX d → y1 = y + unitY d → x2 = x + 2 * unitX d → y2 = y + 2 * unitY d →
    (s.cfg.legal = true → x < s.cfg.w ∧ y < s.cfg.h → 0 ≤ x2 ∧ 0 ≤ y2 ∧ x2 < s.cfg.w ∧ y2 < s.cfg.h →
      0 ≤ x1 ∧ 0 ≤ y1 ∧ x1 < s.cfg.w ∧ y1 < s.cfg.h ∧ ∃ t, exec (.carve d) s = .next t ∧
      (∀ r : Pos, r.x < s.cfg.w → r.y < s.cfg.h →
        (t.gridRead r = true ↔ (r.x = x1 ∧ r.y = y1) ∨ (r.x = x2 ∧ r.y = y2) ∨ s.gridRead r = true)) ∧
      (∀ k a1 a2, a1 = cellAddr s.cfg ⟨x1.toNat, y1.toNat⟩ → a2 = cellAddr s.cfg ⟨x2.toNat, y2.toNat⟩ →
        (k < 4 * a1 ∨ 4 * a1 + 4 ≤ k) → (k < 4 * a2 ∨ 4 * a2 + 4 ≤ k) → t.gridByte k = s.gridByte k) ∧
      t = { s with
        grid := t.grid, res := BitVec.ofInt 32 (y2 * 65536 + x2), err := .ok, infl := .none }) ∧
    (¬ (x < s.cfg.w ∧ y < s.cfg.h) ∨ ¬ (0 ≤ x2 ∧ 0 ≤ y2 ∧ x2 < s.cfg.w ∧ y2 < s.cfg.h) →
      exec (.carve d) s = .next { s with err := .range, infl := .none })

/-- R146: a direction the neighbor rule reports never carves outside the grid, for every legal build. -/
def Obligations.ReportedDirectionsCarveInsideTheGrid : Prop :=
  ∀ (s : State) (d : Dir), s.cfg.legal = true → inGrid s.cfg (unpackPos s.operand) = true →
    (s.nbrMask (unpackPos s.operand)).getLsbD (dirCode d).toNat = true →
    inGrid s.cfg (stepPos (unpackPos s.operand) d 1) = true ∧ inGrid s.cfg (stepPos (unpackPos s.operand) d 2) = true ∧
    ∃ t, exec (.carve d) s = .next t ∧ t.err = .ok ∧ t.res = packPos (stepPos (unpackPos s.operand) d 2)

/-- The index clamp of R141 never changes the index for a draw from the PRNG (R142), and a chosen direction is open. -/
def Obligations.IndexClampNeverBindsForDraws : Prop :=
  (∀ (s : State) (cnt : Nat), 1 ≤ cnt → cnt ≤ 4 →
    s.drawValue.toNat / (0xFFFFFFFF / cnt) ≤ cnt - 1 ∧ chooseIdx cnt s.drawValue = s.drawValue.toNat / (0xFFFFFFFF / cnt)) ∧
  ∀ (s : State) (q : Pos) (r : Word), s.nbrMask q ≠ 0 →
    s.probeOpen q (chooseDir (s.nbrMask q) (maskCount (s.nbrMask q)) r) = true

/-! ### PRNG -/

/-- R160 to R162: PRNG_NEXT answers the next value of the generator, clamped at 0xFFFFFFFB, and advances SEED to the raw
value, or to the clamped one where CLAMP_WB = 1. -/
def Obligations.PrngNextAnswersTheClampedDraw : Prop :=
  decode 0x00000018 = .ok .prngNext ∧
  ∀ (s : State) (raw : Nat), raw = (1103515245 * s.seed.toNat + 12345) % 2 ^ 32 →
    exec .prngNext s = .next { s with
      res := BitVec.ofNat 32 (min raw 0xFFFFFFFB)
      seed := BitVec.ofNat 32 (if s.cfg.clampWb then min raw 0xFFFFFFFB else raw)
      err := .ok
      infl := .none } ∧ (BitVec.ofNat 32 (min raw 0xFFFFFFFB)).toNat ≤ 0xFFFFFFFB

/-- R163: PRNG_TICK advances SEED by 1 modulo 2^32. -/
def Obligations.PrngTickAddsOne : Prop :=
  decode 0x00000019 = .ok .prngTick ∧
  ∀ s : State, exec .prngTick s = .next { s with
    seed := BitVec.ofNat 32 ((s.seed.toNat + 1) % 2 ^ 32), err := .ok, infl := .none }

/-- R164: PRNG_SEED loads the operand word. -/
def Obligations.PrngSeedLoadsTheOperand : Prop :=
  decode 0x0000001A = .ok .prngSeed ∧
  ∀ s : State, exec .prngSeed s = .next { s with seed := s.operand, err := .ok, infl := .none }

/-! ### SEQ -/

/-- R181: NOP goes in flight like any command and changes nothing but the completion itself. -/
def Obligations.NopOnlyCompletes : Prop :=
  decode 0x00000000 = .ok .nop ∧ (∀ s : State, exec .nop s = .next { s with err := .ok, infl := .none }) ∧
  ∀ s : State, s.infl = .none → s.writeCmd 0x00000000 = { s with infl := .command 0x00000000 s.arg }

/-- R187: GEN_ACK sets STATE_R to IDLE and changes nothing else. -/
def Obligations.GenAckReturnsToIdle : Prop :=
  decode 0x00000022 = .ok .genAck ∧
  ∀ s : State, exec .genAck s = .next { s with stateR := .idle, err := .ok, infl := .none }

/-- GEN_RUN from a start in the grid of a legal build completes, in DONE with an empty stack or in OVERFLOW with a failed
overflow test; it writes the grid, the stack, SEED, CUR, STATE_R and ERR alone, and inside its spaces alone (R182, R183,
R188). -/
def Obligations.GenRunCompletes : Prop :=
  ∀ s : State, s.cfg.legal = true → inGrid s.cfg (unpackPos s.operand) = true →
    ∃ t, exec .genRun s = .next t ∧
      (t.stateR = .done ∧ t.err = .ok ∧ t.cnt = 0 ∧ t.idx = 0 ∨
        t.stateR = .overflow ∧ t.err = .stkovf ∧ t.cnt ≠ 0 ∧ t.idx = t.cnt.toNat % s.cfg.cap ∧
          (s.cfg.ovfAbortMode = .sticky → t.ovf = true) ∧
          (s.cfg.ovfAbortMode = .count → s.cfg.cap < t.cnt.toNat)) ∧
      t.gridRead (unpackPos s.operand) = true ∧ inGrid s.cfg (unpackPos t.cur) = true ∧
      (∀ k, 4 * nwords s.cfg ≤ k → t.gridByte k = 0) ∧ (∀ k, 4 * s.cfg.cap ≤ k → t.slotByte k = s.slotByte k) ∧
      t = { s with
        grid := t.grid, slots := t.slots, idx := t.idx, cnt := t.cnt, ovf := t.ovf, seed := t.seed, cur := t.cur
        stateR := t.stateR, err := t.err, infl := .none }

/-- GEN_RUN from a start out of range raises RANGE and changes nothing at all; GEN_CENTER is GEN_RUN from the centre cell
and never raises RANGE (R182, R186). -/
def Obligations.GenRunRangeAndGenCenter : Prop :=
  decode 0x00000020 = .ok .genRun ∧ decode 0x00000021 = .ok .genCenter ∧
  (∀ s : State, s.cfg.w ≤ (unpackPos s.operand).x ∨ s.cfg.h ≤ (unpackPos s.operand).y →
    exec .genRun s = .next { s with err := .range, infl := .none }) ∧
  ∀ (s : State) (c : Word), s.cfg.legal = true → ∃ t, exec .genCenter s = .next t ∧
    exec .genRun { s with infl := .command c (packPos ⟨s.cfg.w / 2, s.cfg.h / 2⟩) } = .next t ∧ t.err ≠ .range

/-- A larger bound on either loop of a generation gives the same result: the bounds of the model, W*H inner and W*H + 1
outer iterations, never end a loop (R188). -/
def Obligations.LoopBoundsNeverEndAGeneration : Prop :=
  ∀ (s : State) (q : Pos) (inner outer : Nat), s.cfg.legal = true → inGrid s.cfg q = true →
    s.cfg.w * s.cfg.h ≤ inner → s.cfg.w * s.cfg.h + 1 ≤ outer →
    generateLoop inner outer (s.generateStart q) q = s.generateExit q

/-- In STICKY mode a generation that ends in DONE never overflowed, and one that ends in OVERFLOW did (R184, R189). -/
def Obligations.StickyDoneMeansNoOverflow : Prop :=
  ∀ s : State, s.cfg.legal = true → inGrid s.cfg (unpackPos s.operand) = true → s.cfg.ovfAbortMode = .sticky →
    ∃ t, exec .genRun s = .next t ∧ (t.stateR = .done ↔ t.ovf = false) ∧ (t.stateR = .overflow ↔ t.ovf = true)

/-- A generation that ends in DONE without overflow leaves an empty stack and CUR at the start (R189). -/
def Obligations.DoneReturnsToTheStart : Prop :=
  ∀ s t : State, s.cfg.legal = true → inGrid s.cfg (unpackPos s.operand) = true → exec .genRun s = .next t →
    t.stateR = .done → t.ovf = false → t.cnt = 0 ∧ t.idx = 0 ∧ t.cur = s.operand

/-- The result of a generation depends only on the start, the seed at issue and the parameters: two states that agree in
these, and in nothing else, end with the same grid, stack indices, seed, position and outcome (R189). -/
def Obligations.GenerationIsDeterministic : Prop :=
  ∀ s s' : State, s.cfg.legal = true → s.cfg = s'.cfg → s.seed = s'.seed → s.operand = s'.operand →
    inGrid s.cfg (unpackPos s.operand) = true →
    ∃ t t', exec .genRun s = .next t ∧ exec .genRun s' = .next t' ∧ t.grid = t'.grid ∧ t.idx = t'.idx ∧
      t.cnt = t'.cnt ∧ t.ovf = t'.ovf ∧ t.seed = t'.seed ∧ t.cur = t'.cur ∧ t.stateR = t'.stateR ∧ t.err = t'.err

/-- Spanning: with the reference margins, a generation that ends in DONE without overflow carves every lattice cell of the
start (R189). -/
def Obligations.DoneGenerationSpansTheLattice : Prop :=
  ∀ s t : State, s.cfg.legal = true → s.cfg.nearMargin = 2 → s.cfg.farMargin = 3 →
    inGrid s.cfg (unpackPos s.operand) = true → exec .genRun s = .next t → t.stateR = .done → t.ovf = false →
    ∀ r : Pos, inGrid s.cfg r = true → onLattice (unpackPos s.operand) r = true → t.gridRead r = true

/-- The carved cells of any generation, finished or aborted: each shares the start's parity in x or in y, and they are
one less than twice the carved lattice cells, one intermediate cell for each lattice cell but the start (R189). -/
def Obligations.CarvedCellsAreLatticeCellsAndOneEdgeEach : Prop :=
  ∀ s t : State, s.cfg.legal = true → inGrid s.cfg (unpackPos s.operand) = true → exec .genRun s = .next t →
    (∀ r : Pos, inGrid s.cfg r = true → t.gridRead r = true →
      r.x % 2 = (unpackPos s.operand).x % 2 ∨ r.y % 2 = (unpackPos s.operand).y % 2) ∧
    countCells s.cfg t.gridRead + 1 =
      2 * countCells s.cfg (fun r => onLattice (unpackPos s.operand) r && t.gridRead r)

/-- The carved cells of any generation, finished or aborted, hang together: a carved cell off the lattice lies between two
carved lattice cells, and every carved lattice cell is joined to the start by a path of such edges. With the count of
`CarvedCellsAreLatticeCellsAndOneEdgeEach` (one edge fewer than vertices) the edges are a tree (R189). -/
def Obligations.CarvedCellsHangTogetherFromTheStart : Prop :=
  ∀ s t : State, s.cfg.legal = true → inGrid s.cfg (unpackPos s.operand) = true → exec .genRun s = .next t →
    (∀ r : Pos, inGrid s.cfg r = true → t.gridRead r = true → onLattice (unpackPos s.operand) r = false →
      ∃ q d, onLattice (unpackPos s.operand) q = true ∧ r = stepPos q d 1 ∧
        mazeEdge s.cfg t.gridRead q (stepPos q d 2)) ∧
    ∀ r : Pos, inGrid s.cfg r = true → t.gridRead r = true → onLattice (unpackPos s.operand) r = true →
      Relation.ReflTransGen (mazeEdge s.cfg t.gridRead) (unpackPos s.operand) r

/-! ### The host window -/

/-- R49, R51, R52, R217: a misaligned access, a write with a partial strobe and an access to a reserved offset get ERROR
and change no state of the block. -/
def Obligations.BadAccessesGetErrorAndChangeNothing : Prop :=
  Response.readError.data = 0 ∧
  ∀ (s : State) (off : BitVec 6) (data : Word) (strobe : BitVec 4),
    (off.toNat % 4 ≠ 0 ∨ 0x24 ≤ off.toNat →
      s.hostAccess (.read off) = { s with responses := .readError :: s.responses } ∧
      s.hostAccess (.write off data strobe) = { s with responses := .writeError :: s.responses }) ∧
    (strobe ≠ 0b1111 → s.hostAccess (.write off data strobe) = { s with responses := .writeError :: s.responses })

/-- R54 with R40 to R42 and R44 to R48: what a read of each register answers while the block is ready, and that a read of
CMD answers 0 at any time, busy or not; no read changes anything (R55). -/
def Obligations.ReadyReadsAnswerTheRegisters : Prop :=
  (∀ s : State, s.infl = .none → ∀ p ∈ [((0x00 : BitVec 6), (0 : Word)), (0x04, s.arg), (0x08, s.res), (0x10, s.cur),
      (0x14, s.seed), (0x18, s.cnt), (0x1C, BitVec.ofNat 32 (s.cfg.h % 65536 * 65536 + s.cfg.w % 65536)),
      (0x20, BitVec.ofNat 32 s.cfg.cap)],
    s.hostAccess (.read p.1) = { s with responses := .readOk p.2 :: s.responses }) ∧
  ∀ s : State, s.hostAccess (.read 0x00) = { s with responses := .readOk 0x00000000 :: s.responses }

/-- R247: while busy, a read of CUR, SEED or STKCNT and the OVF bit of STATUS are a fresh free value, for every value of
the counter of free values; ARG, RES, GEOM and CAPR read exactly their values, and so do the other STATUS fields. -/
def Obligations.LiveRegistersReadFreeValuesWhileBusy : Prop :=
  ∀ s : State, s.infl ≠ .none →
    (∀ off ∈ [(0x10 : BitVec 6), 0x14, 0x18], s.hostAccess (.read off) =
      { s with responses := .readOk (Config.freeLive s.draws) :: s.responses, draws := s.draws + 1 }) ∧
    (∃ v : Word, s.hostAccess (.read 0x0C) =
        { s with responses := .readOk v :: s.responses, draws := s.draws + 1 } ∧
      v.getLsbD 0 = true ∧ v.getLsbD 3 = Config.freeFlag s.draws ∧ v.extractLsb' 4 4 = errCode s.err ∧
      v.getLsbD 8 = s.cmdLost ∧ v.extractLsb' 1 2 = genStateCode s.stateView) ∧
    (∀ p ∈ [((0x04 : BitVec 6), s.arg), (0x08, s.res), (0x1C, geomWord s.cfg), (0x20, caprWord s.cfg)],
      s.hostAccess (.read p.1) = { s with responses := .readOk p.2 :: s.responses })

/-- R43: the fields of STATUS, and its one effect, bit 8 clearing CMDLOST. -/
def Obligations.StatusShowsItsFields : Prop :=
  ∀ s : State,
    (∃ (v : Word) (n : Nat), s.hostAccess (.read 0x0C) =
        { s with responses := .readOk v :: s.responses, draws := n } ∧
      (v.getLsbD 0 = true ↔ s.infl ≠ .none) ∧
      ((∃ a, s.infl = .command 0x20 a ∨ s.infl = .command 0x21 a) → v.extractLsb' 1 2 = 1) ∧
      ((¬ ∃ a, s.infl = .command 0x20 a ∨ s.infl = .command 0x21 a) → v.extractLsb' 1 2 = genStateCode s.stateR) ∧
      (s.infl = .none → v.getLsbD 3 = s.ovf ∧ n = s.draws) ∧
      v.extractLsb' 4 4 = errCode s.err ∧ v.getLsbD 8 = s.cmdLost ∧ v.extractLsb' 9 23 = 0) ∧
    ∀ data : Word, s.hostAccess (.write 0x0C data 0b1111) =
      { s with cmdLost := s.cmdLost && !data.getLsbD 8, responses := .writeOk :: s.responses }

/-- R243, R34, R216: a CMD write issues with the operand latched and changes nothing else; while busy it is dropped and
only sets CMDLOST. -/
def Obligations.CmdWriteIssuesOrIsDropped : Prop :=
  ∀ (s : State) (v : Word),
    (s.infl = .none → s.hostAccess (.write 0x00 v 0b1111) =
      { s with infl := .command v s.arg, responses := .writeOk :: s.responses }) ∧
    (s.infl ≠ .none → s.hostAccess (.write 0x00 v 0b1111) =
      { s with cmdLost := true, responses := .writeOk :: s.responses })

/-- R41, R250, R56: an ARG write stores at any time and leaves the command in flight its latched operand; a write of a
read-only register is answered OK and ignored. -/
def Obligations.ArgStoresAndReadOnlyWritesAreIgnored : Prop :=
  ∀ (s : State) (v : Word),
    s.hostAccess (.write 0x04 v 0b1111) = { s with arg := v, responses := .writeOk :: s.responses } ∧
    (∀ c a, s.infl = .command c a → (s.hostAccess (.write 0x04 v 0b1111)).operand = a) ∧
    ∀ off ∈ [(0x08 : BitVec 6), 0x10, 0x14, 0x18, 0x1C, 0x20],
      s.hostAccess (.write off v 0b1111) = { s with responses := .writeOk :: s.responses }

/-- R47, R48: GEOM and CAPR of the reference instance. -/
def Obligations.ReferenceGeometryReads : Prop :=
  geomWord Params.reference = 0x00A000F0 ∧ caprWord Params.reference = 0x00001388

/-- R63: no HOST step changes G, S, IDX, CNT, OVF, SEED, CUR, STATE_R, RES or ERR; a command's effects come at its
completion alone. -/
def Obligations.HostStepsNeverTouchCommandResults : Prop :=
  ∀ (s : State) (a : Access),
    (s.hostAccess a).grid = s.grid ∧ (s.hostAccess a).slots = s.slots ∧ (s.hostAccess a).idx = s.idx ∧
    (s.hostAccess a).cnt = s.cnt ∧ (s.hostAccess a).ovf = s.ovf ∧ (s.hostAccess a).seed = s.seed ∧
    (s.hostAccess a).cur = s.cur ∧ (s.hostAccess a).stateR = s.stateR ∧ (s.hostAccess a).res = s.res ∧
    (s.hostAccess a).err = s.err ∧
    ((s.hostAccess a).infl ≠ s.infl → ∃ v, a = .write 0x00 v 0b1111 ∧ s.infl = .none)

/-! ### Errors -/

/-- R212: a command that raises an error changes nothing but ERR and BUSY; so for the commands, and for a word that is
no command. -/
def Obligations.ErrorsArePrecise : Prop :=
  (∀ (i : Instr) (s t : State), exec i s = .next t → t.err ∈ [ErrCode.illegal, .range, .empty, .nodir] →
    t = { s with err := t.err, infl := .none }) ∧
  ∀ (c : Word) (s : State), (∃ e, decode c = .error e) →
    completeWord c s = .next { s with err := .illegal, infl := .none }

/-- R211: which commands produce which code; every completion leaves the block ready. -/
def Obligations.EachErrorComesFromItsCommands : Prop :=
  ∀ (i : Instr) (s t : State), s.cfg.legal = true → exec i s = .next t →
    t.infl = .none ∧ t.err ≠ .illegal ∧
    (t.err = .range → i ∈ [Instr.gridRead, .gridWrite false, .gridWrite true, .gridRdword, .nbr, .pick, .carve .north,
      .carve .east, .carve .south, .carve .west, .genRun]) ∧
    (t.err = .empty → i = .stkPop ∧ s.cnt = 0) ∧ (t.err = .nodir → i = .pick) ∧
    (t.err = .stkovf → (i = .genRun ∨ i = .genCenter) ∧ t.stateR = .overflow)

/-! ### Reset -/

/-- What a reset leaves, whatever state it falls in: the registers, the flags and INFL as R240 lists them. That the slots
hold nothing written before, every byte a free value, is the model's form of R240's unspecified slots (log entry 5).
That every grid word is 0 from the reset step on is the model's choice of the two forms R241 permits (log entry 6). -/
def Obligations.ResetSetsEveryElement : Prop :=
  ∀ (s : State) (rest : List Event), s.cfg.legal = true → s.pending = .reset :: rest → ∃ t, step s = .next t ∧
    t.idx = 0 ∧ t.cnt = 0 ∧ t.ovf = false ∧ t.seed = s.cfg.seedInit ∧ t.cur = 0 ∧ t.stateR = .idle ∧ t.arg = 0 ∧
    t.res = 0 ∧ t.err = .ok ∧ t.cmdLost = false ∧ t.infl = .resetClear ∧ t.busy = true ∧ t.cfg = s.cfg ∧
    (∀ k, t.slotByte k = Config.freeSlotByte t.epoch k) ∧ (∀ a, t.gridWord a = 0)

/-- The post-reset clear. That every grid word, pad bits included, is 0 from the reset step on, while BUSY = 1, is the
model's choice of the two forms R241 permits (log entry 6). That the completion of RESET_CLEAR sets INFL to none and
changes nothing else, whether the SEQ step comes by itself or as a stored event, is R241's rule. -/
def Obligations.PostResetClearOnlyEnds : Prop :=
  (∀ (s : State) (a : Nat), s.hardReset.gridWord a = 0 ∧ s.hardReset.busy = true) ∧
  ∀ s : State, s.cfg.legal = true → s.infl = .resetClear →
    (s.pending = [] → step s = .next { s with infl := .none }) ∧
    (∀ rest, s.pending = .seq :: rest → step s = .next { s with pending := rest, infl := .none })

/-- A reset discards the command in flight and all its effects (R242): states that differ only in the block's own elements
are one state right after the reset step. That they are one already there, and not only once RESET_CLEAR has completed,
is the model's choice: the grid is zeroed at the reset step (log entry 6), the slots become free values that depend on
the number of resets (log entry 5), and the model's own fields stay or count on, so they are premises here (log entry
20). -/
def Obligations.ResetDiscardsTheCommandInFlight : Prop :=
  ∀ s s' : State, s.cfg = s'.cfg → s.pending = s'.pending → s.responses = s'.responses → s.draws = s'.draws →
    s.epoch = s'.epoch → s.hardReset = s'.hardReset

/-- The state after reset of the reference instance has every invariant. Its parameters are the reference
values of R6 (log entry 1). That its grid is zeroed at the reset itself and that no slot is listed are the model's
choices (log entries 6 and 5). -/
def Obligations.ResetStateHasTheInvariants : Prop :=
  GridInv State.reset ∧ StackInv State.reset ∧ State.reset.stateRLegal ∧ State.reset.seed = 0 ∧
    State.reset.infl = .resetClear

/-! ### What every step keeps -/

/-- R22 as an invariant: every pad bit is 0, kept by every step from every state. With it, kept too, the canonical form of
the grid storage inside its NWORDS words, which is the model's representation (log entry 7). -/
def Obligations.StepKeepsTheGridInvariant : Prop := ∀ s t : State, GridInv s → step s = .next t → GridInv t

/-- R23, R24, R26 as an invariant: IDX names a slot, a count above CAP shows in OVF, and no pop can read a slot that was
not written since reset; kept by every step from every state. With it, kept too, the canonical form of the slot storage
inside its CAP slots, which is the model's representation (log entries 5 and 7). -/
def Obligations.StepKeepsTheStackInvariant : Prop := ∀ s t : State, StackInv s → step s = .next t → StackInv t

/-- STATE_R never holds CARVING (R29), and the parameters are constant while the machine runs (R6). -/
def Obligations.StepKeepsBuildAndLegalState : Prop :=
  ∀ s t : State, step s = .next t → t.cfg = s.cfg ∧ (s.stateRLegal → t.stateRLegal)

/-- In every state of a legal build whose IDX names a slot the machine goes on: no fault, no refusal. Where nothing is in
flight and nothing in store, the step that goes on is the idle one, the model's choice (log entry 9). -/
def Obligations.LegalMachineAlwaysGoesOn : Prop :=
  ∀ s : State, s.cfg.legal = true → s.idx < s.cfg.cap → s.goesOn

/-- R27, R28, R165, R180: SEED, CUR and STATE_R change only in a step that is the completion of a command that writes
them, or a reset; no HOST step and no completion of another command changes them. -/
def Obligations.SeedCurAndStateChangeOnlyByTheirCommands : Prop :=
  ∀ s t : State, step s = .next t →
    (t.seed ≠ s.seed → s.resetNext ∨ s.completing [.prngNext, .prngTick, .prngSeed, .pick, .genRun, .genCenter]) ∧
    (t.cur ≠ s.cur → s.resetNext ∨ s.completing [.genRun, .genCenter]) ∧
    (t.stateR ≠ s.stateR → s.resetNext ∨ s.completing [.genRun, .genCenter, .genAck])

/-- R26, R34: OVF is cleared only in a step that is the completion of STK_RESET or of a generation, or a reset, and set only
in the completion of a push or of a generation; CMDLOST is cleared only by a STATUS write with bit 8 set or reset, and set only by a CMD write while busy. -/
def Obligations.StickyFlagsClearOnlyAsTheRulesSay : Prop :=
  ∀ s t : State, step s = .next t →
    (s.ovf = true → t.ovf = false → s.resetNext ∨ s.completing [.stkReset, .genRun, .genCenter]) ∧
    (s.ovf = false → t.ovf = true → s.completing [.stkPush, .genRun, .genCenter]) ∧
    (s.cmdLost = true → t.cmdLost = false → s.resetNext ∨
      ∃ v rest, s.pending = .host (.write 0x0C v 0b1111) :: rest ∧ v.getLsbD 8 = true) ∧
    (s.cmdLost = false → t.cmdLost = true → s.infl ≠ .none ∧
      ∃ v rest, s.pending = .host (.write 0x00 v 0b1111) :: rest)
end

