-- ==== Sys2Proof/Laws/Memory.lean ====
section
/-! SUPPORT. The laws of the storage operations: read after write, writes elsewhere, and that every operation keeps the
canonical form and stays inside the space. -/

namespace Sys2Proof.Machine

/-! ### Bytes and words -/

theorem wordOfBytes_wordByte (w : Word) :
    wordOfBytes (wordByte w 0) (wordByte w 1) (wordByte w 2) (wordByte w 3) = w := by
  apply BitVec.eq_of_getLsbD_eq
  intro i hi
  simp only [wordOfBytes, wordByte, BitVec.getLsbD_append, BitVec.getLsbD_extractLsb']
  by_cases h0 : i < 8
  · simp [h0]
  · by_cases h1 : i < 16
    · have : i - 8 < 8 := by omega
      have e : 8 * 1 + (i - 8) = i := by omega
      simp [h0, this, e]
    · by_cases h2 : i < 24
      · have a : ¬ i - 8 < 8 := by omega
        have b : i - 8 - 8 < 8 := by omega
        have e : 8 * 2 + (i - 8 - 8) = i := by omega
        simp [h0, a, b, e]
      · have a : ¬ i - 8 < 8 := by omega
        have b : ¬ i - 8 - 8 < 8 := by omega
        have c : i - 8 - 8 - 8 < 8 := by omega
        have e : 8 * 3 + (i - 8 - 8 - 8) = i := by omega
        simp [h0, a, b, c, e]

/-! ### Listing and unlisting -/

theorem Memory.find?_insert_same (m : Memory) (k : Nat) (v : Byte) :
    Memory.find? (Memory.insert m k v) k = some v := by
  induction m with
  | nil => simp [Memory.insert, Memory.find?]
  | cons c m ih =>
    obtain ⟨a, b⟩ := c
    unfold Memory.insert
    split
    · simp [Memory.find?]
    · split
      · simp [Memory.find?]
      · simp [Memory.find?, *]

theorem Memory.find?_insert_ne (m : Memory) {k j : Nat} (v : Byte) (h : j ≠ k) :
    Memory.find? (Memory.insert m k v) j = Memory.find? m j := by
  induction m with
  | nil => simp [Memory.insert, Memory.find?, h]
  | cons c m ih =>
    obtain ⟨a, b⟩ := c
    unfold Memory.insert
    split
    · simp [Memory.find?, h]
    · split
      · subst_vars; simp [Memory.find?, h]
      · simp [Memory.find?, ih]

theorem Memory.find?_erase_same (m : Memory) (k : Nat) : Memory.find? (Memory.erase m k) k = none := by
  induction m with
  | nil => rfl
  | cons c m ih =>
    obtain ⟨a, b⟩ := c
    unfold Memory.erase
    split
    · exact ih
    · simp [Memory.find?, *]

theorem Memory.find?_erase_ne (m : Memory) {k j : Nat} (h : j ≠ k) :
    Memory.find? (Memory.erase m k) j = Memory.find? m j := by
  induction m with
  | nil => rfl
  | cons c m ih =>
    obtain ⟨a, b⟩ := c
    unfold Memory.erase
    split
    · subst_vars; simp [Memory.find?, h, ih]
    · simp [Memory.find?, ih]

theorem Memory.find?_setByte_ne (blank : Option Byte) (m : Memory) {k j : Nat} (v : Byte) (h : j ≠ k) :
    Memory.find? (Memory.setByte blank m k v) j = Memory.find? m j := by
  unfold Memory.setByte
  split
  · exact Memory.find?_erase_ne m h
  · exact Memory.find?_insert_ne m v h

theorem Memory.find?_setByte_none_same (m : Memory) (k : Nat) (v : Byte) :
    Memory.find? (Memory.setByte none m k v) k = some v := by
  simp [Memory.setByte, Memory.find?_insert_same]

/-- Read after write of one byte, where the value that is not listed is what an unlisted address reads as. -/
theorem Memory.byte_setByte_same (blank : Option Byte) (m : Memory) (d : Nat → Byte) (k : Nat) (v : Byte)
    (hd : ∀ z, blank = some z → d k = z) : Memory.byte (Memory.setByte blank m k v) d k = v := by
  unfold Memory.byte Memory.setByte
  split
  · rename_i h
    simp [Memory.find?_erase_same, hd v h]
  · simp [Memory.find?_insert_same]

theorem Memory.byte_setByte_ne (blank : Option Byte) (m : Memory) (d : Nat → Byte) {k j : Nat} (v : Byte)
    (h : j ≠ k) : Memory.byte (Memory.setByte blank m k v) d j = Memory.byte m d j := by
  simp [Memory.byte, Memory.find?_setByte_ne blank m v h]

/-! ### Words -/

/-- The bytes outside a written word stay. -/
theorem Memory.find?_setWord_ne (blank : Option Byte) (m : Memory) {a j : Nat} (w : Word)
    (h : j < 4 * a ∨ 4 * a + 4 ≤ j) : Memory.find? (Memory.setWord blank m a w) j = Memory.find? m j := by
  unfold Memory.setWord
  rw [Memory.find?_setByte_ne _ _ _ (by omega), Memory.find?_setByte_ne _ _ _ (by omega),
    Memory.find?_setByte_ne _ _ _ (by omega), Memory.find?_setByte_ne _ _ _ (by omega)]

/-- The bytes of a written word are listed where every byte is. -/
theorem Memory.find?_setWord_none_isSome (m : Memory) (a : Nat) (w : Word) {b : Nat} (hb : b < 4) :
    (Memory.find? (Memory.setWord none m a w) (4 * a + b)).isSome = true := by
  unfold Memory.setWord
  have h : b = 0 ∨ b = 1 ∨ b = 2 ∨ b = 3 := by omega
  rcases h with rfl | rfl | rfl | rfl
  · rw [Memory.find?_setByte_ne _ _ _ (by omega), Memory.find?_setByte_ne _ _ _ (by omega),
      Memory.find?_setByte_ne _ _ _ (by omega), Nat.add_zero, Memory.find?_setByte_none_same]; rfl
  · rw [Memory.find?_setByte_ne _ _ _ (by omega), Memory.find?_setByte_ne _ _ _ (by omega),
      Memory.find?_setByte_none_same]; rfl
  · rw [Memory.find?_setByte_ne _ _ _ (by omega), Memory.find?_setByte_none_same]; rfl
  · rw [Memory.find?_setByte_none_same]; rfl

theorem Memory.byte_setWord_ne (blank : Option Byte) (m : Memory) (d : Nat → Byte) {a j : Nat} (w : Word)
    (h : j < 4 * a ∨ 4 * a + 4 ≤ j) : Memory.byte (Memory.setWord blank m a w) d j = Memory.byte m d j := by
  simp [Memory.byte, Memory.find?_setWord_ne blank m w h]

/-- Read after write of a word. -/
theorem Memory.word_setWord_same (blank : Option Byte) (m : Memory) (d : Nat → Byte) (a : Nat) (w : Word)
    (hd : ∀ z, blank = some z → ∀ k, d k = z) : Memory.word (Memory.setWord blank m a w) d a = w := by
  have hd' : ∀ k, ∀ z, blank = some z → d k = z := fun k z hz => hd z hz k
  unfold Memory.word Memory.setWord
  rw [Memory.byte_setByte_ne _ _ _ _ (by omega), Memory.byte_setByte_ne _ _ _ _ (by omega),
    Memory.byte_setByte_ne _ _ _ _ (by omega), Memory.byte_setByte_same _ _ _ _ _ (hd' _),
    Memory.byte_setByte_ne _ _ _ _ (by omega), Memory.byte_setByte_ne _ _ _ _ (by omega),
    Memory.byte_setByte_same _ _ _ _ _ (hd' _),
    Memory.byte_setByte_ne _ _ _ _ (by omega), Memory.byte_setByte_same _ _ _ _ _ (hd' _),
    Memory.byte_setByte_same _ _ _ _ _ (hd' _)]
  exact wordOfBytes_wordByte w

/-- A write leaves every other word alone. -/
theorem Memory.word_setWord_ne (blank : Option Byte) (m : Memory) (d : Nat → Byte) {a j : Nat} (w : Word)
    (h : j ≠ a) : Memory.word (Memory.setWord blank m a w) d j = Memory.word m d j := by
  unfold Memory.word
  rw [Memory.byte_setWord_ne _ _ _ _ (by omega), Memory.byte_setWord_ne _ _ _ _ (by omega),
    Memory.byte_setWord_ne _ _ _ _ (by omega), Memory.byte_setWord_ne _ _ _ _ (by omega)]

/-- A word whose bytes are all listed does not depend on what an unlisted address reads as. -/
theorem Memory.word_of_listed (m : Memory) (d e : Nat → Byte) (a : Nat)
    (h : ∀ b, b < 4 → (Memory.find? m (4 * a + b)).isSome = true) : Memory.word m d a = Memory.word m e a := by
  have hb : ∀ b, b < 4 → Memory.byte m d (4 * a + b) = Memory.byte m e (4 * a + b) := by
    intro b hb
    obtain ⟨v, hv⟩ := Option.isSome_iff_exists.mp (h b hb)
    simp [Memory.byte, hv]
  have h0 := hb 0 (by omega)
  simp only [Nat.add_zero] at h0
  unfold Memory.word
  rw [h0, hb 1 (by omega), hb 2 (by omega), hb 3 (by omega)]

/-! ### The canonical form -/

theorem Memory.rising_mono {lo lo' : Nat} {m : Memory} (h : lo ≤ lo') (hm : Memory.rising (some lo') m = true) :
    Memory.rising (some lo) m = true := by
  cases m with
  | nil => rfl
  | cons c m =>
    obtain ⟨a, b⟩ := c
    simp only [Memory.rising, Bool.and_eq_true, decide_eq_true_eq] at hm ⊢
    exact ⟨by omega, hm.2⟩

theorem Memory.rising_insert_some {lo k : Nat} (m : Memory) (v : Byte) (hk : lo < k)
    (hm : Memory.rising (some lo) m = true) : Memory.rising (some lo) (Memory.insert m k v) = true := by
  induction m generalizing lo with
  | nil => simp [Memory.insert, Memory.rising, hk]
  | cons c m ih =>
    obtain ⟨a, b⟩ := c
    simp only [Memory.rising, Bool.and_eq_true, decide_eq_true_eq] at hm
    unfold Memory.insert
    split
    · simp [Memory.rising, hm.2, *]
    · split
      · subst_vars; simp [Memory.rising, hm.1, hm.2]
      · simp only [Memory.rising, Bool.and_eq_true, decide_eq_true_eq]
        exact ⟨hm.1, ih (by omega) hm.2⟩

theorem Memory.rising_insert (m : Memory) (k : Nat) (v : Byte) (hm : Memory.rising none m = true) :
    Memory.rising none (Memory.insert m k v) = true := by
  cases m with
  | nil => simp [Memory.insert, Memory.rising]
  | cons c m =>
    obtain ⟨a, b⟩ := c
    simp only [Memory.rising] at hm
    unfold Memory.insert
    split
    · simp [Memory.rising, *]
    · split
      · subst_vars; simpa [Memory.rising] using hm
      · simp only [Memory.rising]
        exact Memory.rising_insert_some m v (by omega) hm

theorem Memory.rising_erase_some {lo : Nat} (m : Memory) (k : Nat) (hm : Memory.rising (some lo) m = true) :
    Memory.rising (some lo) (Memory.erase m k) = true := by
  induction m generalizing lo with
  | nil => rfl
  | cons c m ih =>
    obtain ⟨a, b⟩ := c
    simp only [Memory.rising, Bool.and_eq_true, decide_eq_true_eq] at hm
    unfold Memory.erase
    split
    · exact ih (Memory.rising_mono (Nat.le_of_lt hm.1) hm.2)
    · simp [Memory.rising, hm.1, ih hm.2]

theorem Memory.rising_of_some {lo : Nat} {m : Memory} (hm : Memory.rising (some lo) m = true) :
    Memory.rising none m = true := by
  cases m with
  | nil => rfl
  | cons c m => simp only [Memory.rising, Bool.and_eq_true] at hm ⊢; exact hm.2

theorem Memory.rising_erase (m : Memory) (k : Nat) (hm : Memory.rising none m = true) :
    Memory.rising none (Memory.erase m k) = true := by
  cases m with
  | nil => rfl
  | cons c m =>
    obtain ⟨a, b⟩ := c
    simp only [Memory.rising] at hm
    unfold Memory.erase
    split
    · exact Memory.rising_of_some (Memory.rising_erase_some m k hm)
    · simpa [Memory.rising] using Memory.rising_erase_some m k hm

theorem Memory.all_insert (p : Host.Cell → Bool) (m : Memory) (k : Nat) (v : Byte) (hm : m.all p = true)
    (hv : p (k, v) = true) : (Memory.insert m k v).all p = true := by
  induction m with
  | nil => simp [Memory.insert, hv]
  | cons c m ih =>
    obtain ⟨a, b⟩ := c
    simp only [List.all_cons, Bool.and_eq_true] at hm
    unfold Memory.insert
    split
    · simp [hv, hm.1]; exact fun a b h => List.all_eq_true.mp hm.2 _ h
    · split
      · simp only [List.all_cons, Bool.and_eq_true]; exact ⟨hv, hm.2⟩
      · simp only [List.all_cons, Bool.and_eq_true]; exact ⟨hm.1, ih hm.2⟩

theorem Memory.all_erase (p : Host.Cell → Bool) (m : Memory) (k : Nat) (hm : m.all p = true) :
    (Memory.erase m k).all p = true := by
  induction m with
  | nil => rfl
  | cons c m ih =>
    obtain ⟨a, b⟩ := c
    simp only [List.all_cons, Bool.and_eq_true] at hm
    unfold Memory.erase
    split
    · exact ih hm.2
    · simp only [List.all_cons, Bool.and_eq_true]; exact ⟨hm.1, ih hm.2⟩

/-- A byte write keeps the canonical form. -/
theorem Memory.wf_setByte (blank : Option Byte) (m : Memory) (k : Nat) (v : Byte) (hm : Memory.wf blank m = true) :
    Memory.wf blank (Memory.setByte blank m k v) = true := by
  simp only [Memory.wf, Bool.and_eq_true] at hm ⊢
  unfold Memory.setByte
  split
  · exact ⟨Memory.rising_erase m k hm.1, Memory.all_erase _ m k hm.2⟩
  · rename_i h
    exact ⟨Memory.rising_insert m k v hm.1, Memory.all_insert _ m k v hm.2 (by simpa using h)⟩

/-- A word write keeps the canonical form. -/
theorem Memory.wf_setWord (blank : Option Byte) (m : Memory) (a : Nat) (w : Word) (hm : Memory.wf blank m = true) :
    Memory.wf blank (Memory.setWord blank m a w) = true := by
  unfold Memory.setWord
  exact Memory.wf_setByte _ _ _ _ (Memory.wf_setByte _ _ _ _ (Memory.wf_setByte _ _ _ _ (Memory.wf_setByte _ _ _ _ hm)))

/-- A cleared space is in canonical form. -/
theorem Memory.wf_nil (blank : Option Byte) : Memory.wf blank [] = true := rfl

theorem Memory.within_setByte (n : Nat) (blank : Option Byte) (m : Memory) {k : Nat} (v : Byte) (hk : k < 4 * n)
    (hm : Memory.within n m = true) : Memory.within n (Memory.setByte blank m k v) = true := by
  unfold Memory.within Memory.setByte at *
  split
  · exact Memory.all_erase _ m k hm
  · exact Memory.all_insert _ m k v hm (by simpa using hk)

/-- A write of a word of the space stays inside the space. -/
theorem Memory.within_setWord (n : Nat) (blank : Option Byte) (m : Memory) {a : Nat} (w : Word) (ha : a < n)
    (hm : Memory.within n m = true) : Memory.within n (Memory.setWord blank m a w) = true := by
  unfold Memory.setWord
  exact Memory.within_setByte _ _ _ _ (by omega) (Memory.within_setByte _ _ _ _ (by omega)
    (Memory.within_setByte _ _ _ _ (by omega) (Memory.within_setByte _ _ _ _ (by omega) hm)))

end Sys2Proof.Machine
end

