-- ==== Sys2Proof/Laws/State.lean ====
section
/-! SUPPORT. One lemma per field per update, so that no later proof unfolds a record update. -/

namespace Sys2Proof.Machine

@[simp] theorem State.raiseError_eq (s : State) (e : ErrCode) : s.raiseError e = s.complete e := rfl
@[simp] theorem State.finish_eq (s : State) : s.finish = s.complete .ok := rfl


/-! `complete` -/

@[simp] theorem State.complete_grid (s : State) (e : ErrCode) : (s.complete e).grid = s.grid := rfl
@[simp] theorem State.complete_slots (s : State) (e : ErrCode) : (s.complete e).slots = s.slots := rfl
@[simp] theorem State.complete_idx (s : State) (e : ErrCode) : (s.complete e).idx = s.idx := rfl
@[simp] theorem State.complete_cnt (s : State) (e : ErrCode) : (s.complete e).cnt = s.cnt := rfl
@[simp] theorem State.complete_ovf (s : State) (e : ErrCode) : (s.complete e).ovf = s.ovf := rfl
@[simp] theorem State.complete_seed (s : State) (e : ErrCode) : (s.complete e).seed = s.seed := rfl
@[simp] theorem State.complete_cur (s : State) (e : ErrCode) : (s.complete e).cur = s.cur := rfl
@[simp] theorem State.complete_stateR (s : State) (e : ErrCode) : (s.complete e).stateR = s.stateR := rfl
@[simp] theorem State.complete_arg (s : State) (e : ErrCode) : (s.complete e).arg = s.arg := rfl
@[simp] theorem State.complete_res (s : State) (e : ErrCode) : (s.complete e).res = s.res := rfl
@[simp] theorem State.complete_err (s : State) (e : ErrCode) : (s.complete e).err = e := rfl
@[simp] theorem State.complete_cmdLost (s : State) (e : ErrCode) : (s.complete e).cmdLost = s.cmdLost := rfl
@[simp] theorem State.complete_infl (s : State) (e : ErrCode) : (s.complete e).infl = .none := rfl
@[simp] theorem State.complete_cfg (s : State) (e : ErrCode) : (s.complete e).cfg = s.cfg := rfl
@[simp] theorem State.complete_pending (s : State) (e : ErrCode) : (s.complete e).pending = s.pending := rfl
@[simp] theorem State.complete_responses (s : State) (e : ErrCode) : (s.complete e).responses = s.responses := rfl
@[simp] theorem State.complete_draws (s : State) (e : ErrCode) : (s.complete e).draws = s.draws := rfl
@[simp] theorem State.complete_epoch (s : State) (e : ErrCode) : (s.complete e).epoch = s.epoch := rfl
@[simp] theorem State.complete_gridWord (s : State) (e : ErrCode) (k : Nat) : (s.complete e).gridWord k = s.gridWord k := rfl
@[simp] theorem State.complete_gridRead (s : State) (e : ErrCode) (r : Pos) : (s.complete e).gridRead r = s.gridRead r := rfl
@[simp] theorem State.complete_slot (s : State) (e : ErrCode) (i : Nat) : (s.complete e).slot i = s.slot i := rfl

/-! `setRes` -/

@[simp] theorem State.setRes_grid (s : State) (v : Word) : (s.setRes v).grid = s.grid := rfl
@[simp] theorem State.setRes_slots (s : State) (v : Word) : (s.setRes v).slots = s.slots := rfl
@[simp] theorem State.setRes_idx (s : State) (v : Word) : (s.setRes v).idx = s.idx := rfl
@[simp] theorem State.setRes_cnt (s : State) (v : Word) : (s.setRes v).cnt = s.cnt := rfl
@[simp] theorem State.setRes_ovf (s : State) (v : Word) : (s.setRes v).ovf = s.ovf := rfl
@[simp] theorem State.setRes_seed (s : State) (v : Word) : (s.setRes v).seed = s.seed := rfl
@[simp] theorem State.setRes_cur (s : State) (v : Word) : (s.setRes v).cur = s.cur := rfl
@[simp] theorem State.setRes_stateR (s : State) (v : Word) : (s.setRes v).stateR = s.stateR := rfl
@[simp] theorem State.setRes_arg (s : State) (v : Word) : (s.setRes v).arg = s.arg := rfl
@[simp] theorem State.setRes_res (s : State) (v : Word) : (s.setRes v).res = v := rfl
@[simp] theorem State.setRes_err (s : State) (v : Word) : (s.setRes v).err = s.err := rfl
@[simp] theorem State.setRes_cmdLost (s : State) (v : Word) : (s.setRes v).cmdLost = s.cmdLost := rfl
@[simp] theorem State.setRes_infl (s : State) (v : Word) : (s.setRes v).infl = s.infl := rfl
@[simp] theorem State.setRes_cfg (s : State) (v : Word) : (s.setRes v).cfg = s.cfg := rfl
@[simp] theorem State.setRes_pending (s : State) (v : Word) : (s.setRes v).pending = s.pending := rfl
@[simp] theorem State.setRes_responses (s : State) (v : Word) : (s.setRes v).responses = s.responses := rfl
@[simp] theorem State.setRes_draws (s : State) (v : Word) : (s.setRes v).draws = s.draws := rfl
@[simp] theorem State.setRes_epoch (s : State) (v : Word) : (s.setRes v).epoch = s.epoch := rfl
@[simp] theorem State.setRes_gridWord (s : State) (v : Word) (k : Nat) : (s.setRes v).gridWord k = s.gridWord k := rfl
@[simp] theorem State.setRes_gridRead (s : State) (v : Word) (r : Pos) : (s.setRes v).gridRead r = s.gridRead r := rfl
@[simp] theorem State.setRes_slot (s : State) (v : Word) (i : Nat) : (s.setRes v).slot i = s.slot i := rfl

/-! `setSeed` -/

@[simp] theorem State.setSeed_grid (s : State) (v : Word) : (s.setSeed v).grid = s.grid := rfl
@[simp] theorem State.setSeed_slots (s : State) (v : Word) : (s.setSeed v).slots = s.slots := rfl
@[simp] theorem State.setSeed_idx (s : State) (v : Word) : (s.setSeed v).idx = s.idx := rfl
@[simp] theorem State.setSeed_cnt (s : State) (v : Word) : (s.setSeed v).cnt = s.cnt := rfl
@[simp] theorem State.setSeed_ovf (s : State) (v : Word) : (s.setSeed v).ovf = s.ovf := rfl
@[simp] theorem State.setSeed_seed (s : State) (v : Word) : (s.setSeed v).seed = v := rfl
@[simp] theorem State.setSeed_cur (s : State) (v : Word) : (s.setSeed v).cur = s.cur := rfl
@[simp] theorem State.setSeed_stateR (s : State) (v : Word) : (s.setSeed v).stateR = s.stateR := rfl
@[simp] theorem State.setSeed_arg (s : State) (v : Word) : (s.setSeed v).arg = s.arg := rfl
@[simp] theorem State.setSeed_res (s : State) (v : Word) : (s.setSeed v).res = s.res := rfl
@[simp] theorem State.setSeed_err (s : State) (v : Word) : (s.setSeed v).err = s.err := rfl
@[simp] theorem State.setSeed_cmdLost (s : State) (v : Word) : (s.setSeed v).cmdLost = s.cmdLost := rfl
@[simp] theorem State.setSeed_infl (s : State) (v : Word) : (s.setSeed v).infl = s.infl := rfl
@[simp] theorem State.setSeed_cfg (s : State) (v : Word) : (s.setSeed v).cfg = s.cfg := rfl
@[simp] theorem State.setSeed_pending (s : State) (v : Word) : (s.setSeed v).pending = s.pending := rfl
@[simp] theorem State.setSeed_responses (s : State) (v : Word) : (s.setSeed v).responses = s.responses := rfl
@[simp] theorem State.setSeed_draws (s : State) (v : Word) : (s.setSeed v).draws = s.draws := rfl
@[simp] theorem State.setSeed_epoch (s : State) (v : Word) : (s.setSeed v).epoch = s.epoch := rfl
@[simp] theorem State.setSeed_gridWord (s : State) (v : Word) (k : Nat) : (s.setSeed v).gridWord k = s.gridWord k := rfl
@[simp] theorem State.setSeed_gridRead (s : State) (v : Word) (r : Pos) : (s.setSeed v).gridRead r = s.gridRead r := rfl
@[simp] theorem State.setSeed_slot (s : State) (v : Word) (i : Nat) : (s.setSeed v).slot i = s.slot i := rfl

/-! `setStateR` -/

@[simp] theorem State.setStateR_grid (s : State) (v : GenState) : (s.setStateR v).grid = s.grid := rfl
@[simp] theorem State.setStateR_slots (s : State) (v : GenState) : (s.setStateR v).slots = s.slots := rfl
@[simp] theorem State.setStateR_idx (s : State) (v : GenState) : (s.setStateR v).idx = s.idx := rfl
@[simp] theorem State.setStateR_cnt (s : State) (v : GenState) : (s.setStateR v).cnt = s.cnt := rfl
@[simp] theorem State.setStateR_ovf (s : State) (v : GenState) : (s.setStateR v).ovf = s.ovf := rfl
@[simp] theorem State.setStateR_seed (s : State) (v : GenState) : (s.setStateR v).seed = s.seed := rfl
@[simp] theorem State.setStateR_cur (s : State) (v : GenState) : (s.setStateR v).cur = s.cur := rfl
@[simp] theorem State.setStateR_stateR (s : State) (v : GenState) : (s.setStateR v).stateR = v := rfl
@[simp] theorem State.setStateR_arg (s : State) (v : GenState) : (s.setStateR v).arg = s.arg := rfl
@[simp] theorem State.setStateR_res (s : State) (v : GenState) : (s.setStateR v).res = s.res := rfl
@[simp] theorem State.setStateR_err (s : State) (v : GenState) : (s.setStateR v).err = s.err := rfl
@[simp] theorem State.setStateR_cmdLost (s : State) (v : GenState) : (s.setStateR v).cmdLost = s.cmdLost := rfl
@[simp] theorem State.setStateR_infl (s : State) (v : GenState) : (s.setStateR v).infl = s.infl := rfl
@[simp] theorem State.setStateR_cfg (s : State) (v : GenState) : (s.setStateR v).cfg = s.cfg := rfl
@[simp] theorem State.setStateR_pending (s : State) (v : GenState) : (s.setStateR v).pending = s.pending := rfl
@[simp] theorem State.setStateR_responses (s : State) (v : GenState) : (s.setStateR v).responses = s.responses := rfl
@[simp] theorem State.setStateR_draws (s : State) (v : GenState) : (s.setStateR v).draws = s.draws := rfl
@[simp] theorem State.setStateR_epoch (s : State) (v : GenState) : (s.setStateR v).epoch = s.epoch := rfl
@[simp] theorem State.setStateR_gridWord (s : State) (v : GenState) (k : Nat) : (s.setStateR v).gridWord k = s.gridWord k := rfl
@[simp] theorem State.setStateR_gridRead (s : State) (v : GenState) (r : Pos) : (s.setStateR v).gridRead r = s.gridRead r := rfl
@[simp] theorem State.setStateR_slot (s : State) (v : GenState) (i : Nat) : (s.setStateR v).slot i = s.slot i := rfl

/-! `setGridWord` -/

@[simp] theorem State.setGridWord_grid (s : State) (a : Nat) (w : Word) : (s.setGridWord a w).grid = Memory.setWord (some 0) s.grid a w := rfl
@[simp] theorem State.setGridWord_slots (s : State) (a : Nat) (w : Word) : (s.setGridWord a w).slots = s.slots := rfl
@[simp] theorem State.setGridWord_idx (s : State) (a : Nat) (w : Word) : (s.setGridWord a w).idx = s.idx := rfl
@[simp] theorem State.setGridWord_cnt (s : State) (a : Nat) (w : Word) : (s.setGridWord a w).cnt = s.cnt := rfl
@[simp] theorem State.setGridWord_ovf (s : State) (a : Nat) (w : Word) : (s.setGridWord a w).ovf = s.ovf := rfl
@[simp] theorem State.setGridWord_seed (s : State) (a : Nat) (w : Word) : (s.setGridWord a w).seed = s.seed := rfl
@[simp] theorem State.setGridWord_cur (s : State) (a : Nat) (w : Word) : (s.setGridWord a w).cur = s.cur := rfl
@[simp] theorem State.setGridWord_stateR (s : State) (a : Nat) (w : Word) : (s.setGridWord a w).stateR = s.stateR := rfl
@[simp] theorem State.setGridWord_arg (s : State) (a : Nat) (w : Word) : (s.setGridWord a w).arg = s.arg := rfl
@[simp] theorem State.setGridWord_res (s : State) (a : Nat) (w : Word) : (s.setGridWord a w).res = s.res := rfl
@[simp] theorem State.setGridWord_err (s : State) (a : Nat) (w : Word) : (s.setGridWord a w).err = s.err := rfl
@[simp] theorem State.setGridWord_cmdLost (s : State) (a : Nat) (w : Word) : (s.setGridWord a w).cmdLost = s.cmdLost := rfl
@[simp] theorem State.setGridWord_infl (s : State) (a : Nat) (w : Word) : (s.setGridWord a w).infl = s.infl := rfl
@[simp] theorem State.setGridWord_cfg (s : State) (a : Nat) (w : Word) : (s.setGridWord a w).cfg = s.cfg := rfl
@[simp] theorem State.setGridWord_pending (s : State) (a : Nat) (w : Word) : (s.setGridWord a w).pending = s.pending := rfl
@[simp] theorem State.setGridWord_responses (s : State) (a : Nat) (w : Word) : (s.setGridWord a w).responses = s.responses := rfl
@[simp] theorem State.setGridWord_draws (s : State) (a : Nat) (w : Word) : (s.setGridWord a w).draws = s.draws := rfl
@[simp] theorem State.setGridWord_epoch (s : State) (a : Nat) (w : Word) : (s.setGridWord a w).epoch = s.epoch := rfl
@[simp] theorem State.setGridWord_slot (s : State) (a : Nat) (w : Word) (i : Nat) : (s.setGridWord a w).slot i = s.slot i := rfl

/-! `gridWrite` -/

@[simp] theorem State.gridWrite_slots (s : State) (q : Pos) (b : Bool) : (s.gridWrite q b).slots = s.slots := rfl
@[simp] theorem State.gridWrite_idx (s : State) (q : Pos) (b : Bool) : (s.gridWrite q b).idx = s.idx := rfl
@[simp] theorem State.gridWrite_cnt (s : State) (q : Pos) (b : Bool) : (s.gridWrite q b).cnt = s.cnt := rfl
@[simp] theorem State.gridWrite_ovf (s : State) (q : Pos) (b : Bool) : (s.gridWrite q b).ovf = s.ovf := rfl
@[simp] theorem State.gridWrite_seed (s : State) (q : Pos) (b : Bool) : (s.gridWrite q b).seed = s.seed := rfl
@[simp] theorem State.gridWrite_cur (s : State) (q : Pos) (b : Bool) : (s.gridWrite q b).cur = s.cur := rfl
@[simp] theorem State.gridWrite_stateR (s : State) (q : Pos) (b : Bool) : (s.gridWrite q b).stateR = s.stateR := rfl
@[simp] theorem State.gridWrite_arg (s : State) (q : Pos) (b : Bool) : (s.gridWrite q b).arg = s.arg := rfl
@[simp] theorem State.gridWrite_res (s : State) (q : Pos) (b : Bool) : (s.gridWrite q b).res = s.res := rfl
@[simp] theorem State.gridWrite_err (s : State) (q : Pos) (b : Bool) : (s.gridWrite q b).err = s.err := rfl
@[simp] theorem State.gridWrite_cmdLost (s : State) (q : Pos) (b : Bool) : (s.gridWrite q b).cmdLost = s.cmdLost := rfl
@[simp] theorem State.gridWrite_infl (s : State) (q : Pos) (b : Bool) : (s.gridWrite q b).infl = s.infl := rfl
@[simp] theorem State.gridWrite_cfg (s : State) (q : Pos) (b : Bool) : (s.gridWrite q b).cfg = s.cfg := rfl
@[simp] theorem State.gridWrite_pending (s : State) (q : Pos) (b : Bool) : (s.gridWrite q b).pending = s.pending := rfl
@[simp] theorem State.gridWrite_responses (s : State) (q : Pos) (b : Bool) : (s.gridWrite q b).responses = s.responses := rfl
@[simp] theorem State.gridWrite_draws (s : State) (q : Pos) (b : Bool) : (s.gridWrite q b).draws = s.draws := rfl
@[simp] theorem State.gridWrite_epoch (s : State) (q : Pos) (b : Bool) : (s.gridWrite q b).epoch = s.epoch := rfl
@[simp] theorem State.gridWrite_slot (s : State) (q : Pos) (b : Bool) (i : Nat) : (s.gridWrite q b).slot i = s.slot i := rfl

/-! `carveStep` -/

@[simp] theorem State.carveStep_slots (s : State) (q : Pos) (d : Dir) : (s.carveStep q d).slots = s.slots := rfl
@[simp] theorem State.carveStep_idx (s : State) (q : Pos) (d : Dir) : (s.carveStep q d).idx = s.idx := rfl
@[simp] theorem State.carveStep_cnt (s : State) (q : Pos) (d : Dir) : (s.carveStep q d).cnt = s.cnt := rfl
@[simp] theorem State.carveStep_ovf (s : State) (q : Pos) (d : Dir) : (s.carveStep q d).ovf = s.ovf := rfl
@[simp] theorem State.carveStep_seed (s : State) (q : Pos) (d : Dir) : (s.carveStep q d).seed = s.seed := rfl
@[simp] theorem State.carveStep_cur (s : State) (q : Pos) (d : Dir) : (s.carveStep q d).cur = s.cur := rfl
@[simp] theorem State.carveStep_stateR (s : State) (q : Pos) (d : Dir) : (s.carveStep q d).stateR = s.stateR := rfl
@[simp] theorem State.carveStep_arg (s : State) (q : Pos) (d : Dir) : (s.carveStep q d).arg = s.arg := rfl
@[simp] theorem State.carveStep_res (s : State) (q : Pos) (d : Dir) : (s.carveStep q d).res = s.res := rfl
@[simp] theorem State.carveStep_err (s : State) (q : Pos) (d : Dir) : (s.carveStep q d).err = s.err := rfl
@[simp] theorem State.carveStep_cmdLost (s : State) (q : Pos) (d : Dir) : (s.carveStep q d).cmdLost = s.cmdLost := rfl
@[simp] theorem State.carveStep_infl (s : State) (q : Pos) (d : Dir) : (s.carveStep q d).infl = s.infl := rfl
@[simp] theorem State.carveStep_cfg (s : State) (q : Pos) (d : Dir) : (s.carveStep q d).cfg = s.cfg := rfl
@[simp] theorem State.carveStep_pending (s : State) (q : Pos) (d : Dir) : (s.carveStep q d).pending = s.pending := rfl
@[simp] theorem State.carveStep_responses (s : State) (q : Pos) (d : Dir) : (s.carveStep q d).responses = s.responses := rfl
@[simp] theorem State.carveStep_draws (s : State) (q : Pos) (d : Dir) : (s.carveStep q d).draws = s.draws := rfl
@[simp] theorem State.carveStep_epoch (s : State) (q : Pos) (d : Dir) : (s.carveStep q d).epoch = s.epoch := rfl
@[simp] theorem State.carveStep_slot (s : State) (q : Pos) (d : Dir) (i : Nat) : (s.carveStep q d).slot i = s.slot i := rfl

/-! `gridClear` -/

@[simp] theorem State.gridClear_grid (s : State) : s.gridClear.grid = [] := rfl
@[simp] theorem State.gridClear_slots (s : State) : s.gridClear.slots = s.slots := rfl
@[simp] theorem State.gridClear_idx (s : State) : s.gridClear.idx = s.idx := rfl
@[simp] theorem State.gridClear_cnt (s : State) : s.gridClear.cnt = s.cnt := rfl
@[simp] theorem State.gridClear_ovf (s : State) : s.gridClear.ovf = s.ovf := rfl
@[simp] theorem State.gridClear_seed (s : State) : s.gridClear.seed = s.seed := rfl
@[simp] theorem State.gridClear_cur (s : State) : s.gridClear.cur = s.cur := rfl
@[simp] theorem State.gridClear_stateR (s : State) : s.gridClear.stateR = s.stateR := rfl
@[simp] theorem State.gridClear_arg (s : State) : s.gridClear.arg = s.arg := rfl
@[simp] theorem State.gridClear_res (s : State) : s.gridClear.res = s.res := rfl
@[simp] theorem State.gridClear_err (s : State) : s.gridClear.err = s.err := rfl
@[simp] theorem State.gridClear_cmdLost (s : State) : s.gridClear.cmdLost = s.cmdLost := rfl
@[simp] theorem State.gridClear_infl (s : State) : s.gridClear.infl = s.infl := rfl
@[simp] theorem State.gridClear_cfg (s : State) : s.gridClear.cfg = s.cfg := rfl
@[simp] theorem State.gridClear_pending (s : State) : s.gridClear.pending = s.pending := rfl
@[simp] theorem State.gridClear_responses (s : State) : s.gridClear.responses = s.responses := rfl
@[simp] theorem State.gridClear_draws (s : State) : s.gridClear.draws = s.draws := rfl
@[simp] theorem State.gridClear_epoch (s : State) : s.gridClear.epoch = s.epoch := rfl
@[simp] theorem State.gridClear_slot (s : State) (i : Nat) : s.gridClear.slot i = s.slot i := rfl

/-! `stkReset` -/

@[simp] theorem State.stkReset_grid (s : State) : s.stkReset.grid = s.grid := rfl
@[simp] theorem State.stkReset_slots (s : State) : s.stkReset.slots = s.slots := rfl
@[simp] theorem State.stkReset_idx (s : State) : s.stkReset.idx = 0 := rfl
@[simp] theorem State.stkReset_cnt (s : State) : s.stkReset.cnt = 0 := rfl
@[simp] theorem State.stkReset_ovf (s : State) : s.stkReset.ovf = false := rfl
@[simp] theorem State.stkReset_seed (s : State) : s.stkReset.seed = s.seed := rfl
@[simp] theorem State.stkReset_cur (s : State) : s.stkReset.cur = s.cur := rfl
@[simp] theorem State.stkReset_stateR (s : State) : s.stkReset.stateR = s.stateR := rfl
@[simp] theorem State.stkReset_arg (s : State) : s.stkReset.arg = s.arg := rfl
@[simp] theorem State.stkReset_res (s : State) : s.stkReset.res = s.res := rfl
@[simp] theorem State.stkReset_err (s : State) : s.stkReset.err = s.err := rfl
@[simp] theorem State.stkReset_cmdLost (s : State) : s.stkReset.cmdLost = s.cmdLost := rfl
@[simp] theorem State.stkReset_infl (s : State) : s.stkReset.infl = s.infl := rfl
@[simp] theorem State.stkReset_cfg (s : State) : s.stkReset.cfg = s.cfg := rfl
@[simp] theorem State.stkReset_pending (s : State) : s.stkReset.pending = s.pending := rfl
@[simp] theorem State.stkReset_responses (s : State) : s.stkReset.responses = s.responses := rfl
@[simp] theorem State.stkReset_draws (s : State) : s.stkReset.draws = s.draws := rfl
@[simp] theorem State.stkReset_epoch (s : State) : s.stkReset.epoch = s.epoch := rfl
@[simp] theorem State.stkReset_gridWord (s : State) (k : Nat) : s.stkReset.gridWord k = s.gridWord k := rfl
@[simp] theorem State.stkReset_gridRead (s : State) (r : Pos) : s.stkReset.gridRead r = s.gridRead r := rfl
@[simp] theorem State.stkReset_slot (s : State) (i : Nat) : s.stkReset.slot i = s.slot i := rfl

/-! `stkPush` -/

@[simp] theorem State.stkPush_grid (s : State) (v : Word) : (s.stkPush v).grid = s.grid := rfl
@[simp] theorem State.stkPush_slots (s : State) (v : Word) : (s.stkPush v).slots = Memory.setWord none s.slots s.idx v := rfl
@[simp] theorem State.stkPush_idx (s : State) (v : Word) : (s.stkPush v).idx = (s.idx + 1) % s.cfg.cap := rfl
@[simp] theorem State.stkPush_cnt (s : State) (v : Word) : (s.stkPush v).cnt = s.cnt + 1 := rfl
@[simp] theorem State.stkPush_ovf (s : State) (v : Word) : (s.stkPush v).ovf = ovfAfterPush s.cfg.cap (s.cnt + 1) s.ovf := rfl
@[simp] theorem State.stkPush_seed (s : State) (v : Word) : (s.stkPush v).seed = s.seed := rfl
@[simp] theorem State.stkPush_cur (s : State) (v : Word) : (s.stkPush v).cur = s.cur := rfl
@[simp] theorem State.stkPush_stateR (s : State) (v : Word) : (s.stkPush v).stateR = s.stateR := rfl
@[simp] theorem State.stkPush_arg (s : State) (v : Word) : (s.stkPush v).arg = s.arg := rfl
@[simp] theorem State.stkPush_res (s : State) (v : Word) : (s.stkPush v).res = s.res := rfl
@[simp] theorem State.stkPush_err (s : State) (v : Word) : (s.stkPush v).err = s.err := rfl
@[simp] theorem State.stkPush_cmdLost (s : State) (v : Word) : (s.stkPush v).cmdLost = s.cmdLost := rfl
@[simp] theorem State.stkPush_infl (s : State) (v : Word) : (s.stkPush v).infl = s.infl := rfl
@[simp] theorem State.stkPush_cfg (s : State) (v : Word) : (s.stkPush v).cfg = s.cfg := rfl
@[simp] theorem State.stkPush_pending (s : State) (v : Word) : (s.stkPush v).pending = s.pending := rfl
@[simp] theorem State.stkPush_responses (s : State) (v : Word) : (s.stkPush v).responses = s.responses := rfl
@[simp] theorem State.stkPush_draws (s : State) (v : Word) : (s.stkPush v).draws = s.draws := rfl
@[simp] theorem State.stkPush_epoch (s : State) (v : Word) : (s.stkPush v).epoch = s.epoch := rfl
@[simp] theorem State.stkPush_gridWord (s : State) (v : Word) (k : Nat) : (s.stkPush v).gridWord k = s.gridWord k := rfl
@[simp] theorem State.stkPush_gridRead (s : State) (v : Word) (r : Pos) : (s.stkPush v).gridRead r = s.gridRead r := rfl

/-! `popState` -/

@[simp] theorem State.popState_grid (s : State) : s.popState.grid = s.grid := rfl
@[simp] theorem State.popState_slots (s : State) : s.popState.slots = s.slots := rfl
@[simp] theorem State.popState_idx (s : State) : s.popState.idx = s.popIdx := rfl
@[simp] theorem State.popState_cnt (s : State) : s.popState.cnt = s.cnt - 1 := rfl
@[simp] theorem State.popState_ovf (s : State) : s.popState.ovf = s.ovf := rfl
@[simp] theorem State.popState_seed (s : State) : s.popState.seed = s.seed := rfl
@[simp] theorem State.popState_cur (s : State) : s.popState.cur = s.cur := rfl
@[simp] theorem State.popState_stateR (s : State) : s.popState.stateR = s.stateR := rfl
@[simp] theorem State.popState_arg (s : State) : s.popState.arg = s.arg := rfl
@[simp] theorem State.popState_res (s : State) : s.popState.res = s.res := rfl
@[simp] theorem State.popState_err (s : State) : s.popState.err = s.err := rfl
@[simp] theorem State.popState_cmdLost (s : State) : s.popState.cmdLost = s.cmdLost := rfl
@[simp] theorem State.popState_infl (s : State) : s.popState.infl = s.infl := rfl
@[simp] theorem State.popState_cfg (s : State) : s.popState.cfg = s.cfg := rfl
@[simp] theorem State.popState_pending (s : State) : s.popState.pending = s.pending := rfl
@[simp] theorem State.popState_responses (s : State) : s.popState.responses = s.responses := rfl
@[simp] theorem State.popState_draws (s : State) : s.popState.draws = s.draws := rfl
@[simp] theorem State.popState_epoch (s : State) : s.popState.epoch = s.epoch := rfl
@[simp] theorem State.popState_gridWord (s : State) (k : Nat) : s.popState.gridWord k = s.gridWord k := rfl
@[simp] theorem State.popState_gridRead (s : State) (r : Pos) : s.popState.gridRead r = s.gridRead r := rfl
@[simp] theorem State.popState_slot (s : State) (i : Nat) : s.popState.slot i = s.slot i := rfl

/-! `drawState` -/

@[simp] theorem State.drawState_grid (s : State) : s.drawState.grid = s.grid := rfl
@[simp] theorem State.drawState_slots (s : State) : s.drawState.slots = s.slots := rfl
@[simp] theorem State.drawState_idx (s : State) : s.drawState.idx = s.idx := rfl
@[simp] theorem State.drawState_cnt (s : State) : s.drawState.cnt = s.cnt := rfl
@[simp] theorem State.drawState_ovf (s : State) : s.drawState.ovf = s.ovf := rfl
@[simp] theorem State.drawState_cur (s : State) : s.drawState.cur = s.cur := rfl
@[simp] theorem State.drawState_stateR (s : State) : s.drawState.stateR = s.stateR := rfl
@[simp] theorem State.drawState_arg (s : State) : s.drawState.arg = s.arg := rfl
@[simp] theorem State.drawState_res (s : State) : s.drawState.res = s.res := rfl
@[simp] theorem State.drawState_err (s : State) : s.drawState.err = s.err := rfl
@[simp] theorem State.drawState_cmdLost (s : State) : s.drawState.cmdLost = s.cmdLost := rfl
@[simp] theorem State.drawState_infl (s : State) : s.drawState.infl = s.infl := rfl
@[simp] theorem State.drawState_cfg (s : State) : s.drawState.cfg = s.cfg := rfl
@[simp] theorem State.drawState_pending (s : State) : s.drawState.pending = s.pending := rfl
@[simp] theorem State.drawState_responses (s : State) : s.drawState.responses = s.responses := rfl
@[simp] theorem State.drawState_draws (s : State) : s.drawState.draws = s.draws := rfl
@[simp] theorem State.drawState_epoch (s : State) : s.drawState.epoch = s.epoch := rfl
@[simp] theorem State.drawState_gridWord (s : State) (k : Nat) : s.drawState.gridWord k = s.gridWord k := rfl
@[simp] theorem State.drawState_gridRead (s : State) (r : Pos) : s.drawState.gridRead r = s.gridRead r := rfl
@[simp] theorem State.drawState_slot (s : State) (i : Nat) : s.drawState.slot i = s.slot i := rfl

/-! `hardReset` -/

@[simp] theorem State.hardReset_grid (s : State) : s.hardReset.grid = [] := rfl
@[simp] theorem State.hardReset_slots (s : State) : s.hardReset.slots = [] := rfl
@[simp] theorem State.hardReset_idx (s : State) : s.hardReset.idx = 0 := rfl
@[simp] theorem State.hardReset_cnt (s : State) : s.hardReset.cnt = 0 := rfl
@[simp] theorem State.hardReset_ovf (s : State) : s.hardReset.ovf = false := rfl
@[simp] theorem State.hardReset_seed (s : State) : s.hardReset.seed = s.cfg.seedInit := rfl
@[simp] theorem State.hardReset_cur (s : State) : s.hardReset.cur = 0 := rfl
@[simp] theorem State.hardReset_stateR (s : State) : s.hardReset.stateR = .idle := rfl
@[simp] theorem State.hardReset_arg (s : State) : s.hardReset.arg = 0 := rfl
@[simp] theorem State.hardReset_res (s : State) : s.hardReset.res = 0 := rfl
@[simp] theorem State.hardReset_err (s : State) : s.hardReset.err = .ok := rfl
@[simp] theorem State.hardReset_cmdLost (s : State) : s.hardReset.cmdLost = false := rfl
@[simp] theorem State.hardReset_infl (s : State) : s.hardReset.infl = .resetClear := rfl
@[simp] theorem State.hardReset_cfg (s : State) : s.hardReset.cfg = s.cfg := rfl
@[simp] theorem State.hardReset_pending (s : State) : s.hardReset.pending = s.pending := rfl
@[simp] theorem State.hardReset_responses (s : State) : s.hardReset.responses = s.responses := rfl
@[simp] theorem State.hardReset_draws (s : State) : s.hardReset.draws = s.draws := rfl
@[simp] theorem State.hardReset_epoch (s : State) : s.hardReset.epoch = s.epoch + 1 := rfl

end Sys2Proof.Machine
end

