-- ==== Sys2Proof/Laws/Ops.lean ====
section
/-! SUPPORT. What each shared operation does, said once: cells of the grid, Positions, the stack slots, the neighbor mask
and the choice of a direction. -/

namespace Sys2Proof.Machine

/-! ### Builds and Positions -/

theorem Params.legal_iff (p : Params) : p.legal = true ↔
    (1 ≤ p.w ∧ p.w ≤ 65535) ∧ (1 ≤ p.h ∧ p.h ≤ 65535) ∧ (1 ≤ p.cap ∧ p.cap ≤ 2 ^ 24) ∧
      2 ≤ p.nearMargin ∧ 3 ≤ p.farMargin := by
  simp only [Params.legal, Bool.and_eq_true, decide_eq_true_eq, and_assoc]

theorem inGrid_iff (p : Params) (q : Pos) : inGrid p q = true ↔ q.x < p.w ∧ q.y < p.h := by
  simp [inGrid]

theorem unpackPos_packPos (q : Pos) (hx : q.x < 65536) (hy : q.y < 65536) : unpackPos (packPos q) = q := by
  obtain ⟨x, y⟩ := q
  simp only at hx hy
  have h1 : (packPos ⟨x, y⟩).extractLsb' 0 16 = BitVec.ofNat 16 x := by
    simp only [packPos]; exact BitVec.extractLsb'_append_eq_right ..
  have h2 : (packPos ⟨x, y⟩).extractLsb' 16 16 = BitVec.ofNat 16 y := by
    simp only [packPos]; exact BitVec.extractLsb'_append_eq_left ..
  simp only [unpackPos, h1, h2, BitVec.toNat_ofNat, Pos.mk.injEq]
  exact ⟨Nat.mod_eq_of_lt hx, Nat.mod_eq_of_lt hy⟩

/-- A Position of the grid of a legal build survives packing. -/
theorem unpackPos_packPos_of_inGrid {p : Params} (hp : p.legal = true) {q : Pos} (hq : inGrid p q = true) :
    unpackPos (packPos q) = q := by
  rw [Params.legal_iff] at hp
  rw [inGrid_iff] at hq
  exact unpackPos_packPos q (by omega) (by omega)

/-! ### Cells -/

theorem getLsbD_setBit (w : Word) {i j : Nat} (b : Bool) (hi : i < 32) (hj : j < 32) :
    (setBit w i b).getLsbD j = if j = i then b else w.getLsbD j := by
  unfold setBit
  by_cases hij : j = i
  · subst hij
    cases b <;> simp [hj]
  · have hb : (1#32 <<< i).getLsbD j = false := by
      simp only [BitVec.getLsbD_shiftLeft, BitVec.getLsbD_one]
      by_cases hlt : j < i
      · simp [hlt]
      · have : j - i ≠ 0 := by omega
        simp [this]
    cases b
    · simp only [Bool.false_eq_true, if_false, BitVec.getLsbD_and, BitVec.getLsbD_not, hb]
      simp [hij, hj]
    · simp only [if_true, BitVec.getLsbD_or, hb]
      simp [hij]

theorem wpr_mul_ge (p : Params) : p.w ≤ 32 * wpr p := by
  unfold wpr; omega

theorem cell_word_lt {p : Params} {q : Pos} (hq : inGrid p q = true) : q.x / 32 < wpr p := by
  rw [inGrid_iff] at hq
  have := wpr_mul_ge p
  omega

/-- Every cell of the grid lies in one of its NWORDS words (R59). -/
theorem cellAddr_lt {p : Params} {q : Pos} (hq : inGrid p q = true) : cellAddr p q < nwords p := by
  have h1 := cell_word_lt hq
  rw [inGrid_iff] at hq
  unfold cellAddr nwords
  have : (q.y + 1) * wpr p ≤ p.h * wpr p := Nat.mul_le_mul_right _ hq.2
  rw [Nat.add_mul] at this
  omega

theorem row_word_inj {n y k y' k' : Nat} (hk : k < n) (hk' : k' < n) (h : y * n + k = y' * n + k') :
    y = y' ∧ k = k' := by
  have e1 : (y * n + k) / n = y := by
    rw [Nat.mul_comm, Nat.mul_add_div (by omega), Nat.div_eq_of_lt hk, Nat.add_zero]
  have e2 : (y' * n + k') / n = y' := by
    rw [Nat.mul_comm, Nat.mul_add_div (by omega), Nat.div_eq_of_lt hk', Nat.add_zero]
  have : y = y' := by rw [← e1, ← e2, h]
  subst this
  exact ⟨rfl, by omega⟩

/-- Two cells of the grid that share word and bit are one cell (R21). -/
theorem cell_inj {p : Params} {q r : Pos} (hq : inGrid p q = true) (hr : inGrid p r = true)
    (ha : cellAddr p q = cellAddr p r) (hb : q.x % 32 = r.x % 32) : q = r := by
  obtain ⟨hy, hk⟩ := row_word_inj (cell_word_lt hq) (cell_word_lt hr) ha
  obtain ⟨x, y⟩ := q
  obtain ⟨x', y'⟩ := r
  simp only at hy hk hb
  have : x = x' := by omega
  rw [hy, this]

theorem gridWord_setGridWord (s : State) (a k : Nat) (w : Word) :
    (s.setGridWord a w).gridWord k = if k = a then w else s.gridWord k := by
  unfold State.gridWord
  split
  · subst_vars
    exact Memory.word_setWord_same _ _ _ _ _ (by intro z hz _; exact (Option.some.inj hz))
  · exact Memory.word_setWord_ne _ _ _ _ (by assumption)

theorem gridWord_gridWrite (s : State) (q : Pos) (b : Bool) (k : Nat) :
    (s.gridWrite q b).gridWord k =
      if k = cellAddr s.cfg q then setBit (s.gridWord (cellAddr s.cfg q)) (q.x % 32) b else s.gridWord k := by
  unfold State.gridWrite
  rw [gridWord_setGridWord]

/-- What `GridWrite` does to the cells: the named cell takes the value, every other cell of the grid stays (R21, R103). -/
theorem gridRead_gridWrite (s : State) {q r : Pos} (b : Bool) (hq : inGrid s.cfg q = true)
    (hr : inGrid s.cfg r = true) : (s.gridWrite q b).gridRead r = if r = q then b else s.gridRead r := by
  have h32 : ∀ n, n % 32 < 32 := fun n => Nat.mod_lt _ (by omega)
  unfold State.gridRead
  rw [State.gridWrite_cfg, gridWord_gridWrite]
  by_cases ha : cellAddr s.cfg r = cellAddr s.cfg q
  · rw [if_pos ha, getLsbD_setBit _ _ (h32 _) (h32 _), ha]
    by_cases hb : r.x % 32 = q.x % 32
    · have : r = q := cell_inj hr hq ha hb
      simp [this]
    · have : r ≠ q := fun h => hb (by rw [h])
      simp [hb, this]
  · have : r ≠ q := fun h => ha (by rw [h])
    rw [if_neg ha, if_neg this]

theorem gridWord_gridClear (s : State) (a : Nat) : s.gridClear.gridWord a = 0 := by
  simp only [State.gridWord, State.gridClear_grid, Memory.word, Memory.byte, Memory.find?, Option.getD_none]
  rfl

theorem gridRead_gridClear (s : State) (q : Pos) : s.gridClear.gridRead q = false := by
  simp [State.gridRead, gridWord_gridClear]

/-! ### Slots -/

theorem slot_stkPush_same (s : State) (v : Word) : (s.stkPush v).slot s.idx = v := by
  simp only [State.slot, State.stkPush_slots, State.stkPush_epoch]
  exact Memory.word_setWord_same _ _ _ _ _ (by intro z hz; cases hz)

theorem slot_stkPush_ne (s : State) (v : Word) {i : Nat} (h : i ≠ s.idx) : (s.stkPush v).slot i = s.slot i := by
  simp only [State.slot, State.stkPush_slots, State.stkPush_epoch]
  exact Memory.word_setWord_ne _ _ _ _ h

/-! ### The neighbor mask and the choice -/

theorem maskHas_nbrMask (s : State) (q : Pos) (d : Dir) : maskHas (s.nbrMask q) d = s.probeOpen q d := by
  unfold maskHas State.nbrMask
  cases d <;> simp only [dirCode] <;> generalize s.probeOpen q .west = a <;> generalize s.probeOpen q .south = b <;>
    generalize s.probeOpen q .east = c <;> generalize s.probeOpen q .north = e <;> revert a b c e <;> decide

/-- The ordered list of the open directions has `cnt` entries (R141). -/
theorem openDirs_length (m : BitVec 4) : (openDirs m).length = maskCount m := by
  revert m; decide

theorem maskCount_le (m : BitVec 4) : maskCount m ≤ 4 := by
  revert m; decide

theorem maskHas_of_mem_openDirs {m : BitVec 4} {d : Dir} (h : d ∈ openDirs m) : maskHas m d = true :=
  (List.mem_filter.mp h).2

theorem maskCount_pos_of_maskHas {m : BitVec 4} {d : Dir} (h : maskHas m d = true) : maskCount m ≠ 0 := by
  revert m; cases d <;> decide

theorem chooseIdx_lt {cnt : Nat} (h : cnt ≠ 0) (r : Word) : chooseIdx cnt r < cnt := by
  unfold chooseIdx; omega

/-- The chosen direction is open (R141). -/
theorem maskHas_chooseDir {m : BitVec 4} (h : maskCount m ≠ 0) (r : Word) :
    maskHas m (chooseDir m (maskCount m) r) = true := by
  apply maskHas_of_mem_openDirs
  unfold chooseDir
  have hlt : chooseIdx (maskCount m) r < (openDirs m).length := by
    rw [openDirs_length]; exact chooseIdx_lt h r
  rw [List.getD_eq_getElem?_getD, List.getElem?_eq_getElem hlt]
  exact List.getElem_mem hlt

/-- What an open direction says: both cells of the carve step are in the grid, and the probe is uncarved (R140). -/
theorem probeOpen_cells {s : State} {q : Pos} {d : Dir} (hp : s.cfg.legal = true) (hq : inGrid s.cfg q = true)
    (h : s.probeOpen q d = true) :
    inGridAlong s.cfg q d 2 = true ∧ inGrid s.cfg (stepPos q d 1) = true ∧ inGrid s.cfg (stepPos q d 2) = true ∧
      s.gridRead (stepPos q d 2) = false := by
  rw [Params.legal_iff] at hp
  rw [inGrid_iff] at hq
  cases d <;>
    simp only [State.probeOpen, Bool.and_eq_true, decide_eq_true_eq, Bool.not_eq_true'] at h <;>
    obtain ⟨hb, hr⟩ := h <;>
    simp only [inGridAlong, inGrid_iff, stepPos, alongX, alongY, unitX, unitY, Bool.and_eq_true, decide_eq_true_eq,
      Int.mul_zero, Int.mul_one, Int.add_zero, Int.toNat_natCast] <;>
    refine ⟨⟨⟨by first | omega | exact decide_eq_true (by omega), by first | omega | exact decide_eq_true (by omega)⟩,
      by omega, by omega⟩, ⟨by omega, by omega⟩, ⟨by omega, by omega⟩, ?_⟩ <;>
    rw [← hr] <;> congr 2 <;> omega

theorem stepPos_ne {q : Pos} {d : Dir} {p : Params} (h : inGridAlong p q d 2 = true) : stepPos q d 1 ≠ stepPos q d 2 := by
  simp only [inGridAlong, Bool.and_eq_true, decide_eq_true_eq] at h
  obtain ⟨⟨h1, h2⟩, _⟩ := h
  cases d <;> simp only [stepPos, alongX, alongY, unitX, unitY] at * <;> intro e <;>
    simp only [Pos.mk.injEq] at e <;> omega

/-- What a carve step does to the cells (R145, R183): the two cells are carved, every other cell stays. -/
theorem gridRead_carveStep (s : State) {q r : Pos} {d : Dir} (h1 : inGrid s.cfg (stepPos q d 1) = true)
    (h2 : inGrid s.cfg (stepPos q d 2) = true) (hr : inGrid s.cfg r = true) :
    (s.carveStep q d).gridRead r = (decide (r = stepPos q d 1) || decide (r = stepPos q d 2) || s.gridRead r) := by
  unfold State.carveStep
  rw [gridRead_gridWrite _ _ (by simpa using h2) (by simpa using hr), gridRead_gridWrite _ _ h1 hr]
  by_cases e1 : r = stepPos q d 1 <;> by_cases e2 : r = stepPos q d 2 <;> simp [e1, e2]

/-! ### The grid invariant -/

/-- A cell write of the grid keeps the grid's invariant (R22). -/
theorem GridInv.gridWrite {s : State} (h : GridInv s) {q : Pos} (b : Bool) (hq : inGrid s.cfg q = true) :
    GridInv (s.gridWrite q b) where
  legal := by simpa using h.legal
  canonical := Memory.wf_setWord _ _ _ _ h.canonical
  within := by
    simp only [State.gridWrite_cfg]
    exact Memory.within_setWord _ _ _ _ (cellAddr_lt hq) h.within
  pads := by
    intro y k i hy hk hi hpad
    simp only [State.gridWrite_cfg] at hy hk hpad ⊢
    rw [gridWord_gridWrite]
    split
    · rename_i ha
      obtain ⟨-, hk'⟩ := row_word_inj hk (cell_word_lt hq) ha
      rw [getLsbD_setBit _ _ (Nat.mod_lt _ (by omega)) hi, ← ha]
      rw [inGrid_iff] at hq
      unfold isPadBit at hpad
      have : i ≠ q.x % 32 := by omega
      rw [if_neg this]
      exact h.pads y k i hy hk hi hpad
    · exact h.pads y k i hy hk hi hpad

/-- A cleared grid has the grid's invariant (R101). -/
theorem GridInv.gridClear {s : State} (h : s.cfg.legal = true) : GridInv s.gridClear where
  legal := h
  canonical := rfl
  within := rfl
  pads := by intro y k i _ _ _ _; rw [gridWord_gridClear]; simp

/-- The invariant speaks of the grid and the build alone. -/
theorem GridInv.of_eq {s t : State} (h : GridInv s) (hg : t.grid = s.grid) (hc : t.cfg = s.cfg) : GridInv t where
  legal := hc ▸ h.legal
  canonical := hg ▸ h.canonical
  within := by rw [hg, hc]; exact h.within
  pads := by
    intro y k i hy hk hi hpad
    have hw : ∀ a, t.gridWord a = s.gridWord a := by intro a; simp only [State.gridWord, hg]
    rw [hc] at hy hk hpad ⊢
    rw [hw]
    exact h.pads y k i hy hk hi hpad

end Sys2Proof.Machine
end

