-- ==== Sys2Proof/Laws/Gen.lean ====
section
/-! SUPPORT. What the generator's loops can do, said once: the invariant of a generation in progress, the measure of
R188 that every iteration lowers, that the iteration bounds of the model are never what ends a loop, and the induction
over a generation packaged for later proofs. -/

namespace Sys2Proof.Machine

/-- The number of uncarved cells: the measure of R188. -/
def State.uncarved (s : State) : Nat :=
  ((Finset.range s.cfg.w ×ˢ Finset.range s.cfg.h).filter (fun c => s.gridRead ⟨c.1, c.2⟩ = false)).card

/-- The invariant of a generation in progress at position `q` (R183, R188): a legal build, the position in the grid, the
index following the count around the ring, the count bounded by the carved cells, and in-range Positions in every slot
a pop can reach. -/
structure PathInv (s : State) (q : Pos) : Prop where
  legal : s.cfg.legal = true
  here : inGrid s.cfg q = true
  ring : s.idx = s.cnt.toNat % s.cfg.cap
  room : s.cnt.toNat + s.uncarved ≤ s.cfg.w * s.cfg.h
  live : ∀ i, i < s.cnt.toNat → inGrid s.cfg (unpackPos (s.slot (i % s.cfg.cap))) = true

/-! ### The measure -/

theorem mem_uncarved {s : State} {x y : Nat} :
    (x, y) ∈ (Finset.range s.cfg.w ×ˢ Finset.range s.cfg.h).filter (fun c => s.gridRead ⟨c.1, c.2⟩ = false) ↔
      inGrid s.cfg ⟨x, y⟩ = true ∧ s.gridRead ⟨x, y⟩ = false := by
  simp [inGrid_iff]

/-- A state of the same build in which every cell carved before is carved, and one more, has a lower measure. -/
theorem uncarved_lt {s t : State} (hc : t.cfg = s.cfg)
    (hmono : ∀ r, inGrid s.cfg r = true → s.gridRead r = true → t.gridRead r = true) {q : Pos}
    (hq : inGrid s.cfg q = true) (hs : s.gridRead q = false) (ht : t.gridRead q = true) : t.uncarved < s.uncarved := by
  apply Finset.card_lt_card
  refine Finset.ssubset_iff_subset_ne.mpr ⟨?_, ?_⟩
  · rintro ⟨x, y⟩ h
    rw [mem_uncarved, hc] at h
    refine mem_uncarved.mpr ⟨h.1, ?_⟩
    by_contra hn
    rw [Bool.not_eq_false] at hn
    rw [hmono _ h.1 hn] at h
    exact absurd h.2 (by simp)
  · intro he
    have hm : (q.x, q.y) ∈ (Finset.range s.cfg.w ×ˢ Finset.range s.cfg.h).filter
        (fun c => s.gridRead ⟨c.1, c.2⟩ = false) := mem_uncarved.mpr ⟨hq, hs⟩
    rw [← he, mem_uncarved] at hm
    rw [ht] at hm
    exact absurd hm.2 (by simp)

/-- The measure speaks of the grid and the build alone. -/
theorem uncarved_congr {s t : State} (hc : t.cfg = s.cfg) (hg : t.grid = s.grid) : t.uncarved = s.uncarved := by
  have hr : ∀ r, t.gridRead r = s.gridRead r := by
    intro r; simp only [State.gridRead, State.gridWord, hc, hg]
  simp only [State.uncarved, hc, hr]

theorem uncarved_le (s : State) : s.uncarved ≤ s.cfg.w * s.cfg.h := by
  refine (Finset.card_filter_le _ _).trans ?_
  simp

/-! ### One iteration -/

theorem cells_lt_of_legal {p : Params} (h : p.legal = true) : p.w * p.h < 2 ^ 32 := by
  rw [Params.legal_iff] at h
  calc p.w * p.h ≤ 65535 * 65535 := Nat.mul_le_mul h.1.2 h.2.1.2
    _ < 2 ^ 32 := by norm_num

theorem toNat_succ_of_lt {c : Word} (h : c.toNat + 1 < 2 ^ 32) : (c + 1).toNat = c.toNat + 1 := by
  rw [BitVec.toNat_add]; simp; omega

theorem toNat_pred_of_ne {c : Word} (h : c ≠ 0) : (c - 1).toNat = c.toNat - 1 := by
  have : c.toNat ≠ 0 := fun e => h (BitVec.eq_of_toNat_eq (by simpa using e))
  rw [BitVec.toNat_sub]; simp; omega

theorem toNat_pos_of_ne {c : Word} (h : c ≠ 0) : 0 < c.toNat := by
  have : c.toNat ≠ 0 := fun e => h (BitVec.eq_of_toNat_eq (by simpa using e))
  omega

/-- The state after one inner iteration (R183), field by field where it matters. -/
theorem extendState_cfg (s : State) (q : Pos) (d : Dir) : (s.extendState q d).cfg = s.cfg := rfl
theorem extendState_cnt (s : State) (q : Pos) (d : Dir) : (s.extendState q d).cnt = s.cnt + 1 := rfl
theorem extendState_idx (s : State) (q : Pos) (d : Dir) : (s.extendState q d).idx = (s.idx + 1) % s.cfg.cap := rfl
theorem extendState_slot (s : State) (q : Pos) (d : Dir) (i : Nat) :
    (s.extendState q d).slot i = (s.stkPush (packPos q)).slot i := rfl

theorem gridRead_extendState (s : State) (q r : Pos) (d : Dir) :
    (s.extendState q d).gridRead r = (s.carveStep q d).gridRead r := rfl

/-- An inner iteration towards an open direction lowers the measure (R188). -/
theorem uncarved_extendState {s : State} {q : Pos} {d : Dir} (hp : s.cfg.legal = true) (hq : inGrid s.cfg q = true)
    (hd : s.probeOpen q d = true) : (s.extendState q d).uncarved < s.uncarved := by
  obtain ⟨-, h1, h2, h0⟩ := probeOpen_cells hp hq hd
  refine uncarved_lt (extendState_cfg s q d) ?_ h2 h0 ?_
  · intro r hr hc
    rw [gridRead_extendState, gridRead_carveStep s h1 h2 hr, hc, Bool.or_true]
  · rw [gridRead_extendState, gridRead_carveStep s h1 h2 h2]
    simp

/-- An inner iteration keeps the invariant and moves two cells (R183). -/
theorem PathInv.extend {s : State} {q : Pos} {d : Dir} (h : PathInv s q) (hd : s.probeOpen q d = true) :
    PathInv (s.extendState q d) (stepPos q d 2) ∧ (s.extendState q d).cnt.toNat = s.cnt.toNat + 1 ∧
      (s.extendState q d).uncarved < s.uncarved := by
  obtain ⟨-, h1, h2, h0⟩ := probeOpen_cells h.legal h.here hd
  have hlt := uncarved_extendState h.legal h.here hd
  have hroom := h.room
  have hcells := cells_lt_of_legal h.legal
  have hcnt : (s.extendState q d).cnt.toNat = s.cnt.toNat + 1 := by
    rw [extendState_cnt]; exact toNat_succ_of_lt (by omega)
  refine ⟨⟨h.legal, h2, ?_, ?_, ?_⟩, hcnt, hlt⟩
  · rw [extendState_idx, hcnt, extendState_cfg, h.ring]; simp [Nat.add_mod]
  · rw [hcnt, extendState_cfg]; omega
  · intro i hi
    rw [hcnt] at hi
    rw [extendState_cfg, extendState_slot]
    by_cases he : i % s.cfg.cap = s.idx
    · rw [he, slot_stkPush_same, unpackPos_packPos_of_inGrid h.legal h.here]
      exact h.here
    · rw [slot_stkPush_ne s _ he]
      refine h.live i ?_
      have : i ≠ s.cnt.toNat := fun e => he (by rw [e, h.ring])
      omega

theorem ring_pred {c n : Nat} (hc : 0 < c) (hn : 0 < n) : (c % n + n - 1) % n = (c - 1) % n := by
  have e : c % n + n - 1 = c % n + (n - 1) := by omega
  rw [e, Nat.mod_add_mod]
  have e2 : c + (n - 1) = (c - 1) + n := by omega
  rw [e2, Nat.add_mod_right]

/-- The slot a pop reads in a generation: the one the count's last rise wrote (R121). -/
theorem PathInv.popIdx {s : State} {q : Pos} (h : PathInv s q) (hc : s.cnt ≠ 0) :
    s.popIdx = (s.cnt.toNat - 1) % s.cfg.cap := by
  have hp := (Params.legal_iff _).mp h.legal
  unfold State.popIdx
  rw [h.ring]
  exact ring_pred (toNat_pos_of_ne hc) (by omega)

/-- A pop keeps the invariant at the popped position (R183, step 2c). -/
theorem PathInv.pop {s : State} {q : Pos} (h : PathInv s q) (hc : s.cnt ≠ 0) :
    PathInv s.popState (unpackPos s.popValue) ∧ s.popState.cnt.toNat + 1 = s.cnt.toNat := by
  have hpos := toNat_pos_of_ne hc
  have hcnt : s.popState.cnt.toNat = s.cnt.toNat - 1 := by
    rw [State.popState_cnt]; exact toNat_pred_of_ne hc
  have hu : s.popState.uncarved = s.uncarved := uncarved_congr rfl rfl
  have hroom := h.room
  refine ⟨⟨h.legal, ?_, ?_, ?_, ?_⟩, by omega⟩
  · simp only [State.popState_cfg, State.popValue, h.popIdx hc]
    exact h.live _ (by omega)
  · rw [State.popState_idx, h.popIdx hc, hcnt, State.popState_cfg]
  · rw [hu, hcnt, State.popState_cfg]; omega
  · intro i hi
    rw [hcnt] at hi
    simp only [State.popState_cfg, State.popState_slot]
    exact h.live i (by omega)

/-! ### The loops -/

/-- The direction an iteration takes is open (R141, R183). -/
theorem probeOpen_extendDir {s : State} {q : Pos} (h : maskCount (s.nbrMask q) ≠ 0) :
    s.probeOpen q (s.extendDir (s.nbrMask q)) = true := by
  rw [← maskHas_nbrMask]
  exact maskHas_chooseDir h _

/-- Induction over the inner loop: what its start has and every iteration keeps, its end has. -/
theorem extendLoop_induct (P : State → Pos → Prop)
    (hstep : ∀ s q, P s q → maskCount (s.nbrMask q) ≠ 0 →
      P (s.extendState q (s.extendDir (s.nbrMask q))) (stepPos q (s.extendDir (s.nbrMask q)) 2))
    (n : Nat) (s : State) (q : Pos) (h : P s q) : P (extendLoop n s q).1 (extendLoop n s q).2 := by
  induction n generalizing s q with
  | zero => exact h
  | succ n ih =>
    by_cases hm : maskCount (s.nbrMask q) = 0
    · simpa [extendLoop, hm] using h
    · simpa [extendLoop, hm] using ih _ _ (hstep s q h hm)

/-- What the inner loop does from a state of a generation, with a bound no lower than the measure: it keeps the
invariant, it ends only where no neighbor is open, the count does not fall, and count plus measure does not grow. -/
theorem extendLoop_spec (n : Nat) (s : State) (q : Pos) (h : PathInv s q) (hn : s.uncarved ≤ n) :
    PathInv (extendLoop n s q).1 (extendLoop n s q).2 ∧
      maskCount ((extendLoop n s q).1.nbrMask (extendLoop n s q).2) = 0 ∧
      (extendLoop n s q).1.cnt.toNat + (extendLoop n s q).1.uncarved ≤ s.cnt.toNat + s.uncarved ∧
      s.cnt.toNat ≤ (extendLoop n s q).1.cnt.toNat ∧ (extendLoop n s q).1.cfg = s.cfg := by
  induction n generalizing s q with
  | zero =>
    have hm : maskCount (s.nbrMask q) = 0 := by
      by_contra hm
      have := uncarved_extendState h.legal h.here (probeOpen_extendDir hm)
      omega
    exact ⟨h, hm, le_refl _, le_refl _, rfl⟩
  | succ n ih =>
    by_cases hm : maskCount (s.nbrMask q) = 0
    · have e : extendLoop (n + 1) s q = (s, q) := by simp [extendLoop, hm]
      rw [e]
      exact ⟨h, hm, le_refl _, le_refl _, rfl⟩
    · have e : extendLoop (n + 1) s q =
          extendLoop n (s.extendState q (s.extendDir (s.nbrMask q))) (stepPos q (s.extendDir (s.nbrMask q)) 2) := by
        simp [extendLoop, hm]
      obtain ⟨hi, hcnt, hlt⟩ := h.extend (probeOpen_extendDir hm)
      obtain ⟨a, b, c, d, f⟩ := ih _ _ hi (by omega)
      rw [e]
      exact ⟨a, b, by omega, by omega, f.trans (extendState_cfg ..)⟩

/-- The outer loop in one line. -/
theorem generateLoop_succ (inner n : Nat) (s : State) (q : Pos) : generateLoop inner (n + 1) s q =
    if s.cnt = 0 then ⟨s, q, .done⟩ else if s.ovfAbort then ⟨s, q, .overflow⟩
    else generateLoop inner n (extendLoop inner s q).1.popState (unpackPos (extendLoop inner s q).1.popValue) := rfl

/-- What the outer loop ends in, with bounds no lower than R188 asks: an empty stack and DONE, or a failed overflow test
and OVERFLOW. So the bounds are never what ends it. -/
theorem generateLoop_exits (inner n : Nat) (s : State) (q : Pos) (h : PathInv s q) (hin : s.uncarved ≤ inner)
    (hn : s.cnt.toNat + s.uncarved < n) :
    PathInv (generateLoop inner n s q).state (generateLoop inner n s q).pos ∧
      (generateLoop inner n s q).state.cfg = s.cfg ∧
      ((generateLoop inner n s q).result = .done ∧ (generateLoop inner n s q).state.cnt = 0 ∨
        (generateLoop inner n s q).result = .overflow ∧ (generateLoop inner n s q).state.cnt ≠ 0 ∧
          (generateLoop inner n s q).state.ovfAbort = true) := by
  induction n generalizing s q with
  | zero => omega
  | succ n ih =>
    rw [generateLoop_succ]
    by_cases hc : s.cnt = 0
    · rw [if_pos hc]; exact ⟨h, rfl, .inl ⟨rfl, hc⟩⟩
    · rw [if_neg hc]
      by_cases ho : s.ovfAbort = true
      · rw [if_pos ho]; exact ⟨h, rfl, .inr ⟨rfl, hc, ho⟩⟩
      · rw [if_neg ho]
        obtain ⟨a, -, c, d, f⟩ := extendLoop_spec inner s q h hin
        have hpos := toNat_pos_of_ne hc
        have hc' : (extendLoop inner s q).1.cnt ≠ 0 := by intro e; rw [e] at d; simp at d; omega
        obtain ⟨hp, hcnt⟩ := a.pop hc'
        have hu : (extendLoop inner s q).1.popState.uncarved = (extendLoop inner s q).1.uncarved :=
          uncarved_congr rfl rfl
        obtain ⟨x, y, z⟩ := ih _ _ hp (by omega) (by omega)
        exact ⟨x, y.trans f, z⟩

/-- Step 1 of a generation sets up the invariant (R183). -/
theorem generateStart_pathInv (s : State) (q : Pos) (hp : s.cfg.legal = true) (hq : inGrid s.cfg q = true) :
    PathInv (s.generateStart q) q ∧ (s.generateStart q).cnt = 1 ∧
      1 + (s.generateStart q).uncarved ≤ s.cfg.w * s.cfg.h := by
  have hcnt : (s.generateStart q).cnt = 1 := rfl
  have hlt : (s.generateStart q).uncarved < s.gridClear.uncarved := by
    refine uncarved_lt rfl ?_ hq (gridRead_gridClear s q) ?_
    · intro r _ hr
      rw [gridRead_gridClear] at hr
      exact absurd hr (by simp)
    · have e : (s.generateStart q).gridRead q = (s.gridClear.stkReset.gridWrite q true).gridRead q := rfl
      rw [e, gridRead_gridWrite s.gridClear.stkReset true hq hq]; simp
  have hle := uncarved_le s.gridClear
  simp only [State.gridClear_cfg] at hle
  have hcap := (Params.legal_iff _).mp hp
  have hidx : (s.generateStart q).idx = (0 + 1) % s.cfg.cap := rfl
  refine ⟨⟨hp, hq, ?_, ?_, ?_⟩, hcnt, by omega⟩
  · rw [hidx, hcnt]; rfl
  · rw [hcnt]
    have : (s.generateStart q).cfg = s.cfg := rfl
    rw [this]; simp; omega
  · intro i hi
    rw [hcnt] at hi
    have h0 : i = 0 := by simpa using hi
    subst h0
    have e : (s.generateStart q).slot (0 % s.cfg.cap) =
        ((s.gridClear.stkReset.gridWrite q true).stkPush (packPos q)).slot
          (s.gridClear.stkReset.gridWrite q true).idx := by
      simp [State.generateStart]
    have hc : (s.generateStart q).cfg = s.cfg := rfl
    rw [hc, e, slot_stkPush_same, unpackPos_packPos_of_inGrid hp hq]
    exact hq

/-- What `Generate` ends in, for every legal build and every start in the grid (R183, R188). -/
theorem generateExit_spec (s : State) (q : Pos) (hp : s.cfg.legal = true) (hq : inGrid s.cfg q = true) :
    PathInv (s.generateExit q).state (s.generateExit q).pos ∧ (s.generateExit q).state.cfg = s.cfg ∧
      ((s.generateExit q).result = .done ∧ (s.generateExit q).state.cnt = 0 ∨
        (s.generateExit q).result = .overflow ∧ (s.generateExit q).state.cnt ≠ 0 ∧
          (s.generateExit q).state.ovfAbort = true) := by
  obtain ⟨hi, hc, hr⟩ := generateStart_pathInv s q hp hq
  have h1 : (s.generateStart q).cnt.toNat = 1 := by rw [hc]; rfl
  exact generateLoop_exits _ _ _ _ hi (by omega) (by omega)

/-- Induction over a generation: what its start has, and every inner iteration towards an open direction and every pop
keep, its end has. -/
theorem generateExit_induct (P : State → Pos → Prop)
    (hext : ∀ s q, PathInv s q → s.cnt ≠ 0 → P s q → s.probeOpen q (s.extendDir (s.nbrMask q)) = true →
      P (s.extendState q (s.extendDir (s.nbrMask q))) (stepPos q (s.extendDir (s.nbrMask q)) 2))
    (hpop : ∀ s q, PathInv s q → s.cnt ≠ 0 → P s q → P s.popState (unpackPos s.popValue))
    (s : State) (q : Pos) (hp : s.cfg.legal = true) (hq : inGrid s.cfg q = true) (h : P (s.generateStart q) q) :
    P (s.generateExit q).state (s.generateExit q).pos := by
  have key : ∀ inner n s q, PathInv s q → P s q →
      P (generateLoop inner n s q).state (generateLoop inner n s q).pos := by
    intro inner n
    induction n with
    | zero => intro s q _ h; exact h
    | succ n ih =>
      intro s q hi h
      rw [generateLoop_succ]
      by_cases hc : s.cnt = 0
      · rw [if_pos hc]; exact h
      · rw [if_neg hc]
        by_cases ho : s.ovfAbort = true
        · rw [if_pos ho]; exact h
        · rw [if_neg ho]
          obtain ⟨a, b, c⟩ := extendLoop_induct (fun s q => PathInv s q ∧ s.cnt ≠ 0 ∧ P s q)
            (fun s q ⟨a, b, c⟩ hm => by
              have ho := probeOpen_extendDir hm
              obtain ⟨x, y, -⟩ := a.extend ho
              refine ⟨x, ?_, hext s q a b c ho⟩
              intro e; rw [e] at y; simp at y)
            inner s q ⟨hi, hc, h⟩
          exact ih _ _ (a.pop b).1 (hpop _ _ a b c)
  exact key _ _ _ _ (generateStart_pathInv s q hp hq).1 h

end Sys2Proof.Machine
end

