-- ==== Sys2Proof/Laws/PerInstr.lean ====
section
/-! SUPPORT. The statement families made for each instruction. `FieldUse`: a command's word uses no field that R82 does
not give it (R84). -/

namespace Sys2Proof.Laws

/-- R84 for the word of a command: RSV is zero, V is zero but for GRID_WRITE, D is zero but for CARVE. -/
def FieldUse.Statement (i : Instr) : Prop :=
  fieldRsv (encode i) = 0 ∧ (fieldOpc (encode i) ≠ 0x03 → fieldV (encode i) = false) ∧
    (fieldOpc (encode i) ≠ 0x12 → fieldD (encode i) = 0)

theorem FieldUse.nop : FieldUse.Statement .nop := by unfold FieldUse.Statement; decide
theorem FieldUse.gridClear : FieldUse.Statement .gridClear := by unfold FieldUse.Statement; decide
theorem FieldUse.gridRead : FieldUse.Statement .gridRead := by unfold FieldUse.Statement; decide
theorem FieldUse.gridWrite (v : Bool) : FieldUse.Statement (.gridWrite v) := by
  unfold FieldUse.Statement; cases v <;> decide
theorem FieldUse.gridRdword : FieldUse.Statement .gridRdword := by unfold FieldUse.Statement; decide
theorem FieldUse.stkReset : FieldUse.Statement .stkReset := by unfold FieldUse.Statement; decide
theorem FieldUse.stkPush : FieldUse.Statement .stkPush := by unfold FieldUse.Statement; decide
theorem FieldUse.stkPop : FieldUse.Statement .stkPop := by unfold FieldUse.Statement; decide
theorem FieldUse.stkSize : FieldUse.Statement .stkSize := by unfold FieldUse.Statement; decide
theorem FieldUse.nbr : FieldUse.Statement .nbr := by unfold FieldUse.Statement; decide
theorem FieldUse.pick : FieldUse.Statement .pick := by unfold FieldUse.Statement; decide
theorem FieldUse.carve (d : Dir) : FieldUse.Statement (.carve d) := by
  unfold FieldUse.Statement; cases d <;> decide
theorem FieldUse.prngNext : FieldUse.Statement .prngNext := by unfold FieldUse.Statement; decide
theorem FieldUse.prngTick : FieldUse.Statement .prngTick := by unfold FieldUse.Statement; decide
theorem FieldUse.prngSeed : FieldUse.Statement .prngSeed := by unfold FieldUse.Statement; decide
theorem FieldUse.genRun : FieldUse.Statement .genRun := by unfold FieldUse.Statement; decide
theorem FieldUse.genCenter : FieldUse.Statement .genCenter := by unfold FieldUse.Statement; decide
theorem FieldUse.genAck : FieldUse.Statement .genAck := by unfold FieldUse.Statement; decide

end Sys2Proof.Laws
end

