-- ==== Sys2Proof/Laws/Step.lean ====
section
/-! SUPPORT. What a step, a completion and a command can answer, said once; later proofs take these cases apart and do
not unfold `step` or `exec`. -/

namespace Sys2Proof.Machine

theorem step_of_legal {s : State} (h : s.cfg.legal = true) : step s = nextStep s := by
  simp [step, h]

/-- A step that answers a next state took a step of a legal build. -/
theorem step_next {s t : State} (h : step s = .next t) : s.cfg.legal = true ∧ nextStep s = .next t := by
  unfold step at h
  split at h
  · exact ⟨by assumption, h⟩
  · cases h

/-- What a step that answers a next state did (R9): the SEQ step of a state with no event in store, or the next event. -/
theorem nextStep_next {s t : State} (h : nextStep s = .next t) :
    (s.pending = [] ∧ seqStep s = .next t) ∨
    (∃ a rest, s.pending = .host a :: rest ∧ t = State.hostAccess { s with pending := rest } a) ∨
    (∃ rest, s.pending = .seq :: rest ∧ seqStep { s with pending := rest } = .next t) ∨
    (∃ rest, s.pending = .reset :: rest ∧ t = State.hardReset { s with pending := rest }) := by
  unfold nextStep at h
  split at h
  · exact .inl ⟨by assumption, h⟩
  · rename_i e rest he
    cases e with
    | host a => exact .inr (.inl ⟨a, rest, he, by simpa [takeEvent] using h.symm⟩)
    | seq => exact .inr (.inr (.inl ⟨rest, he, h⟩))
    | reset => exact .inr (.inr (.inr ⟨rest, he, by simpa [takeEvent] using h.symm⟩))

/-- What a SEQ step that answers a next state did (R244). -/
theorem seqStep_next {s t : State} (h : seqStep s = .next t) :
    (s.infl = .none ∧ t = s) ∨ (s.infl = .resetClear ∧ t = { s with infl := .none }) ∨
    (∃ c a, s.infl = .command c a ∧
      ((∃ e, decode c = .error e ∧ t = s.raiseError .illegal) ∨ (∃ i, decode c = .ok i ∧ exec i s = .next t))) := by
  unfold seqStep at h
  split at h
  · exact .inl ⟨by assumption, by simpa using h.symm⟩
  · exact .inr (.inl ⟨by assumption, by simpa using h.symm⟩)
  · rename_i c a hc
    refine .inr (.inr ⟨c, a, hc, ?_⟩)
    unfold completeWord at h
    split at h
    · exact .inr ⟨_, by assumption, h⟩
    · exact .inl ⟨_, by assumption, by simpa using h.symm⟩

/-- The centre is a cell of the grid (R186). -/
theorem inGrid_centerPos {p : Params} (h : p.legal = true) : inGrid p (centerPos p) = true := by
  rw [Params.legal_iff] at h
  rw [inGrid_iff]
  simp only [centerPos]
  omega

/-- What a command that answers a next state did, over all commands: an error, or one of the effects of the rules. -/
theorem exec_next {i : Instr} {s t : State} (h : exec i s = .next t) :
    (∃ e, t = s.raiseError e ∧ e ≠ .ok ∧ e ≠ .stkovf) ∨ t = s.finish ∨ t = s.gridClear.finish ∨
    (∃ v, t = (s.setRes v).finish) ∨
    (∃ v, inGrid s.cfg s.posOperand = true ∧ t = (s.gridWrite s.posOperand v).finish) ∨
    t = s.stkReset.finish ∨
    (s.idx < s.cfg.cap ∧ t = (s.stkPush s.operand).finish) ∨
    (s.idx < s.cfg.cap ∧ s.cnt ≠ 0 ∧ t = (s.popState.setRes s.popValue).finish) ∨
    (∃ v, t = (s.drawState.setRes v).finish) ∨
    (∃ d, inGrid s.cfg s.posOperand = true ∧ inGridAlong s.cfg s.posOperand d 2 = true ∧
      t = ((s.carveStep s.posOperand d).setRes (packPos (stepPos s.posOperand d 2))).finish) ∨
    (∃ v, t = (s.setSeed v).finish) ∨
    (∃ q, (s.cfg.legal = true → inGrid s.cfg q = true) ∧ t = s.generate q) ∨
    t = (s.setStateR .idle).finish := by
  cases i with
  | nop => exact .inr (.inl (by simpa [exec, execNop] using h.symm))
  | gridClear => exact .inr (.inr (.inl (by simpa [exec, execGridClear] using h.symm)))
  | gridRead =>
    simp only [exec, execGridRead] at h
    split at h
    · exact .inr (.inr (.inr (.inl ⟨_, (Host.Outcome.next.inj h).symm⟩)))
    · exact .inl ⟨_, (Host.Outcome.next.inj h).symm, by decide, by decide⟩
  | gridWrite v =>
    simp only [exec, execGridWrite] at h
    split at h
    · exact .inr (.inr (.inr (.inr (.inl ⟨v, by assumption, (Host.Outcome.next.inj h).symm⟩))))
    · exact .inl ⟨_, (Host.Outcome.next.inj h).symm, by decide, by decide⟩
  | gridRdword =>
    simp only [exec, execGridRdword] at h
    split at h
    · exact .inr (.inr (.inr (.inl ⟨_, (Host.Outcome.next.inj h).symm⟩)))
    · exact .inl ⟨_, (Host.Outcome.next.inj h).symm, by decide, by decide⟩
  | stkReset => exact .inr (.inr (.inr (.inr (.inr (.inl (by simpa [exec, execStkReset] using h.symm))))))
  | stkPush =>
    simp only [exec, execStkPush] at h
    split at h
    · exact .inr (.inr (.inr (.inr (.inr (.inr (.inl ⟨by assumption, (Host.Outcome.next.inj h).symm⟩))))))
    · cases h
  | stkPop =>
    simp only [exec, execStkPop, State.stkPop] at h
    by_cases hc : s.cnt = 0
    · rw [if_pos hc] at h
      exact .inl ⟨_, (Host.Outcome.next.inj h).symm, by decide, by decide⟩
    · rw [if_neg hc] at h
      simp only at h
      split at h
      · exact .inr (.inr (.inr (.inr (.inr (.inr (.inr (.inl ⟨by assumption, hc, (Host.Outcome.next.inj h).symm⟩)))))))
      · cases h
  | stkSize => exact .inr (.inr (.inr (.inl ⟨_, (Host.Outcome.next.inj h).symm⟩)))
  | nbr =>
    simp only [exec, execNbr] at h
    split at h
    · exact .inr (.inr (.inr (.inl ⟨_, (Host.Outcome.next.inj h).symm⟩)))
    · exact .inl ⟨_, (Host.Outcome.next.inj h).symm, by decide, by decide⟩
  | pick =>
    simp only [exec, execPick] at h
    split at h
    · split at h
      · exact .inl ⟨_, (Host.Outcome.next.inj h).symm, by decide, by decide⟩
      · exact .inr (.inr (.inr (.inr (.inr (.inr (.inr (.inr (.inl ⟨_, (Host.Outcome.next.inj h).symm⟩))))))))
    · exact .inl ⟨_, (Host.Outcome.next.inj h).symm, by decide, by decide⟩
  | carve d =>
    simp only [exec, execCarve] at h
    split at h
    · split at h
      · exact .inr (.inr (.inr (.inr (.inr (.inr (.inr (.inr (.inr (.inl
          ⟨d, by assumption, by assumption, (Host.Outcome.next.inj h).symm⟩)))))))))
      · exact .inl ⟨_, (Host.Outcome.next.inj h).symm, by decide, by decide⟩
    · exact .inl ⟨_, (Host.Outcome.next.inj h).symm, by decide, by decide⟩
  | prngNext => exact .inr (.inr (.inr (.inr (.inr (.inr (.inr (.inr (.inl ⟨_, (Host.Outcome.next.inj h).symm⟩))))))))
  | prngTick =>
    exact .inr (.inr (.inr (.inr (.inr (.inr (.inr (.inr (.inr (.inr (.inl ⟨_, (Host.Outcome.next.inj h).symm⟩))))))))))
  | prngSeed =>
    exact .inr (.inr (.inr (.inr (.inr (.inr (.inr (.inr (.inr (.inr (.inl ⟨_, (Host.Outcome.next.inj h).symm⟩))))))))))
  | genRun =>
    simp only [exec, execGenRun] at h
    split at h
    · exact .inr (.inr (.inr (.inr (.inr (.inr (.inr (.inr (.inr (.inr (.inr (.inl
        ⟨_, fun _ => by assumption, (Host.Outcome.next.inj h).symm⟩)))))))))))
    · exact .inl ⟨_, (Host.Outcome.next.inj h).symm, by decide, by decide⟩
  | genCenter =>
    exact .inr (.inr (.inr (.inr (.inr (.inr (.inr (.inr (.inr (.inr (.inr (.inl
      ⟨_, inGrid_centerPos, (Host.Outcome.next.inj h).symm⟩)))))))))))
  | genAck =>
    exact .inr (.inr (.inr (.inr (.inr (.inr (.inr (.inr (.inr (.inr (.inr (.inr
      (Host.Outcome.next.inj h).symm)))))))))))

/-- What an access does to the block (R55, R63): besides the response it touches nothing but ARG, INFL, CMDLOST and the
counter of free values. -/
theorem hostAccess_touches (s : State) (a : Access) :
    s.hostAccess a = { s with
      arg := (s.hostAccess a).arg
      infl := (s.hostAccess a).infl
      cmdLost := (s.hostAccess a).cmdLost
      draws := (s.hostAccess a).draws
      responses := (s.hostAccess a).responses } := by
  cases a with
  | read off =>
    simp only [State.hostAccess, State.accessEffect]
    split <;> rfl
  | write off data strobe =>
    simp only [State.hostAccess, State.accessEffect]
    split
    · split
      · rename_i r _
        cases r <;> simp only [State.writeReg, State.writeCmd] <;> (try split) <;> rfl
      · rfl
    · rfl

end Sys2Proof.Machine
end

