-- ==== Sys2Proof/Machine/HostAsm.lean ====
section
/-! DEFINITION. The host assembly of spec/30_encoding.md R89 to R91, as events of the machine. A program of the host is
a list of events; `wait` is written as the SEQ step followed by the STATUS read that sees BUSY = 0 (log entry 19). -/

namespace Sys2Proof.Machine

/-- `off(REG)` (R54). -/
def regOffset : Reg → BitVec 6
  | .cmd => 0x00
  | .arg => 0x04
  | .res => 0x08
  | .status => 0x0C
  | .cur => 0x10
  | .seed => 0x14
  | .stkcnt => 0x18
  | .geom => 0x1C
  | .capr => 0x20

/-- `wr REG, imm` (R89). -/
def asmWr (r : Reg) (imm : Word) : Event := .host (.write (regOffset r) imm 0xF)

/-- `rd REG` (R89). -/
def asmRd (r : Reg) : Event := .host (.read (regOffset r))

/-- `pos x, y` (R91). -/
def asmPos (q : Pos) : Event := asmWr .arg (packPos q)

/-- `arg imm` (R91). -/
def asmArg (imm : Word) : Event := asmWr .arg imm

/-- `MNEMONIC` or `MNEMONIC field`: the CMD write of the command's word (R89). -/
def asmIssue (i : Instr) : Event := asmWr .cmd (encode i)

/-- `clrlost` (R91). -/
def asmClrLost : Event := asmWr .status 0x00000100

/-- `wait` (R91), in the order in which its first poll sees the completion. -/
def asmWait : List Event := [.seq, asmRd .status]

/-- `exec MNEMONIC [field]` (R91). -/
def asmExec (i : Instr) : List Event := asmIssue i :: asmWait

/-- The boot duty of R245: see BUSY = 0 after the post-reset clear. -/
def asmBoot : List Event := asmWait

/-- One poll of the start signal that finds it false (R166). -/
def asmIdlePoll : List Event := asmExec .prngTick

/-- The render pass of R105: GRID_RDWORD for every row and word of the grid, each word read from RES. -/
def asmRender (p : Params) : List Event :=
  (List.range p.h).flatMap fun y => (List.range (wpr p)).flatMap fun k =>
    asmArg (BitVec.ofNat 16 y ++ BitVec.ofNat 16 k) :: asmExec .gridRdword ++ [asmRd .res]

/-- How the render pass plots cell `(32k + i, y)` from the word `w` of row y: carved iff bit i, for cells left of W
(R105). -/
def renderCell (p : Params) (k i : Nat) (w : Word) : Option Bool :=
  if 32 * k + i < p.w then some (w.getLsbD i) else none

/-- The mnemonic of a command with its field (R82, R89). -/
def asmText : Instr → String
  | .nop => "NOP"
  | .gridClear => "GRID_CLEAR"
  | .gridRead => "GRID_READ"
  | .gridWrite false => "GRID_WRITE 0"
  | .gridWrite true => "GRID_WRITE 1"
  | .gridRdword => "GRID_RDWORD"
  | .stkReset => "STK_RESET"
  | .stkPush => "STK_PUSH"
  | .stkPop => "STK_POP"
  | .stkSize => "STK_SIZE"
  | .nbr => "NBR"
  | .pick => "PICK"
  | .carve .north => "CARVE N"
  | .carve .east => "CARVE E"
  | .carve .south => "CARVE S"
  | .carve .west => "CARVE W"
  | .prngNext => "PRNG_NEXT"
  | .prngTick => "PRNG_TICK"
  | .prngSeed => "PRNG_SEED"
  | .genRun => "GEN_RUN"
  | .genCenter => "GEN_CENTER"
  | .genAck => "GEN_ACK"

/-- What a disassembler prints for a word (R90). -/
def disassemble (c : Word) : String :=
  match decode c with
  | .ok i => asmText i
  | .error _ => ".word " ++ toString c.toNat

end Sys2Proof.Machine
end

