-- ==== Sys2Proof/Tests/Slice0.lean ====
section
/-! SUPPORT. The model's own tests. Expected values come from spec/95_test_vectors.md (its table ids are named) and from
the examples in the rules; the witnesses show that the statements' hypotheses can be met. -/

-- The kernel evaluations below are taken one after another, so that they do not pile up as waiting threads.
set_option Elab.async false

namespace Sys2Proof.Tests

open Sys2Proof.Machine

/-! ### Helpers -/

/-- An 8 x 8 build. -/
def p8 : Params := { Params.reference with w := 8, h := 8 }

/-- Just out of reset with the post-reset clear completed. -/
def ready (p : Params) : State := { State.powerOn p with infl := .none }

/-- The state with a command in flight. -/
def flight (i : Instr) (a : Word) (s : State) : State := { s with infl := .command (encode i) a }

/-- The next state of an outcome; the reset state stands for a stop. -/
def after : Host.Outcome State Fault Refusal → State
  | .next s => s
  | .fault _ | .refused _ => State.reset

/-- Is the outcome a next state? -/
def goesOn : Host.Outcome State Fault Refusal → Bool
  | .next _ => true
  | .fault _ | .refused _ => false

/-- Run one command with an operand. -/
def run (i : Instr) (a : Word) (s : State) : State := after (exec i (flight i a s))

/-- The first `n` grid words. -/
def words (s : State) (n : Nat) : List Word := (List.range n).map s.gridWord

/-- The state with a cell carved. -/
def carved (l : List Pos) (s : State) : State := l.foldl (fun t q => t.gridWrite q true) s

/-! ### Well-formedness: each check refuses an ill-formed term -/

theorem test_reference_legal : Params.reference.legal = true := by decide
theorem test_p8_legal : p8.legal = true := by decide
theorem test_legal_refuses_w_zero : ({ p8 with w := 0 } : Params).legal = false := by decide
theorem test_legal_refuses_w_big : ({ p8 with w := 65536 } : Params).legal = false := by decide
theorem test_legal_refuses_h_zero : ({ p8 with h := 0 } : Params).legal = false := by decide
theorem test_legal_refuses_h_big : ({ p8 with h := 65536 } : Params).legal = false := by decide
theorem test_legal_refuses_cap_zero : ({ p8 with cap := 0 } : Params).legal = false := by decide
theorem test_legal_refuses_cap_big : ({ p8 with cap := 2 ^ 24 + 1 } : Params).legal = false := by decide
theorem test_legal_refuses_near : ({ p8 with nearMargin := 1 } : Params).legal = false := by decide
theorem test_legal_refuses_far : ({ p8 with farMargin := 2 } : Params).legal = false := by decide
theorem test_every_instr_wellFormed (i : Instr) : i.wellFormed = true := by cases i <;> rfl
theorem test_memory_refuses_unsorted : Memory.wf (some 0) [(4, 1), (4, 2)] = false := by decide
theorem test_memory_refuses_blank : Memory.wf (some 0) [(4, 0)] = false := by decide
theorem test_memory_within_refuses : Memory.within 2 [(8, 1)] = false := by decide

/-! ### Decoding, words from R83 and the table of section 2.1 -/

theorem test_decode_nop : decode 0b00000000000000000000000000000000 = .ok .nop := by decide
theorem test_decode_gridClear : decode 0b00000000000000000000000000000001 = .ok .gridClear := by decide
theorem test_decode_gridRead : decode 0b00000000000000000000000000000010 = .ok .gridRead := by decide
theorem test_decode_gridWrite0 : decode 0b00000000000000000000000000000011 = .ok (.gridWrite false) := by decide
theorem test_decode_gridWrite1 : decode 0b00000000000000000000000100000011 = .ok (.gridWrite true) := by decide
theorem test_decode_gridRdword : decode 0b00000000000000000000000000000100 = .ok .gridRdword := by decide
theorem test_decode_stkReset : decode 0b00000000000000000000000000001000 = .ok .stkReset := by decide
theorem test_decode_stkPush : decode 0b00000000000000000000000000001001 = .ok .stkPush := by decide
theorem test_decode_stkPop : decode 0b00000000000000000000000000001010 = .ok .stkPop := by decide
theorem test_decode_stkSize : decode 0b00000000000000000000000000001011 = .ok .stkSize := by decide
theorem test_decode_nbr : decode 0b00000000000000000000000000010000 = .ok .nbr := by decide
theorem test_decode_pick : decode 0b00000000000000000000000000010001 = .ok .pick := by decide
theorem test_decode_carveN : decode 0b00000000000000000000000000010010 = .ok (.carve .north) := by decide
theorem test_decode_carveE : decode 0b00000000000000000000001000010010 = .ok (.carve .east) := by decide
theorem test_decode_carveS : decode 0b00000000000000000000010000010010 = .ok (.carve .south) := by decide
theorem test_decode_carveW : decode 0b00000000000000000000011000010010 = .ok (.carve .west) := by decide
theorem test_decode_prngNext : decode 0b00000000000000000000000000011000 = .ok .prngNext := by decide
theorem test_decode_prngTick : decode 0b00000000000000000000000000011001 = .ok .prngTick := by decide
theorem test_decode_prngSeed : decode 0b00000000000000000000000000011010 = .ok .prngSeed := by decide
theorem test_decode_genRun : decode 0b00000000000000000000000000100000 = .ok .genRun := by decide
theorem test_decode_genCenter : decode 0b00000000000000000000000000100001 = .ok .genCenter := by decide
theorem test_decode_genAck : decode 0b00000000000000000000000000100010 = .ok .genAck := by decide
theorem test_decode_refuses : [0x00000005, 0x00000013, 0x00000023, 0x000000FF, 0x00000102, 0x00000202, 0x00000303,
    0x00000712, 0x00000812, 0x80000000].map (fun c => decode c) =
    [.error .unknownOpcode, .error .unknownOpcode, .error .unknownOpcode, .error .unknownOpcode,
      .error .strayValueBit, .error .strayDirection, .error .strayDirection, .error .strayValueBit,
      .error .reservedBits, .error .reservedBits] := by decide
theorem test_legalWord_refuses : [0x00000005, 0x00000102, 0x00000303, 0x00000712, 0x00000812].map legalWord =
    [false, false, false, false, false] := by decide
theorem test_legalWord_accepts : [0x00000103, 0x00000612, 0x00000022].map legalWord = [true, true, true] := by decide
theorem test_decodeTableWord : decodeTableWord 32 0x103 = some (.gridWrite true) ∧ decodeTableWord 32 0x102 = none := by
  decide
theorem test_asm : asmWr .cmd (encode (.carve .south)) = .host (.write 0x00 0x00000412 0xF) := by decide

/-! ### Grid (section 2.2) -/

/-- G1, S4. -/
theorem test_gridWrite_reference :
    (run (.gridWrite true) 0x00500078 (ready .reference)).gridWord 643 = 0x01000000 := by decide +kernel
/-- G8: the pad bits stay 0. -/
theorem test_gridWrite_lastCell :
    (run (.gridWrite true) 0x009F00EF (ready .reference)).gridWord 1279 = 0x00008000 := by decide +kernel
/-- G2. -/
theorem test_gridRead_carved :
    (run .gridRead 0x00500078 (carved [⟨120, 80⟩] (ready .reference))).res = 1 := by decide +kernel
/-- G4, G5, G6. -/
theorem test_gridRead_range : [0x000000F0, 0x00A00000, 0x000000FF].map
    (fun a => (run .gridRead a (ready .reference)).err) = [.range, .range, .range] := by decide +kernel
/-- G12, G13, G14: W = 33, H = 2. -/
theorem test_gridRdword_wide : (fun s => ((run .gridRdword 0x00010001 s).res, (run .gridRdword 0x00010002 s).err,
    words s 4)) (carved [⟨32, 1⟩, ⟨31, 0⟩] (ready { p8 with w := 33, h := 2 })) =
    (1, .range, [0x80000000, 0, 0, 1]) := by decide +kernel
/-- G15. -/
theorem test_gridWrite_zero :
    (run (.gridWrite false) 0x00070005 (carved [⟨5, 7⟩, ⟨4, 7⟩] (ready p8))).gridWord 7 = 0x10 := by decide +kernel
/-- G11. -/
theorem test_gridClear : (run .gridClear 0 (carved [⟨5, 7⟩] (ready p8))).grid = [] := by decide +kernel
/-- The example of R104, over the fixture's row. -/
theorem test_gridRdword_row : (run .gridRdword 0x00010000
    (carved [⟨1, 1⟩, ⟨2, 1⟩, ⟨3, 1⟩, ⟨4, 1⟩, ⟨5, 1⟩, ⟨7, 1⟩] (ready p8))).res = 0xBE := by decide +kernel

/-! ### Stack (section 2.3) -/

/-- The stack after K1: CAP = 2, pushes 0x11, 0x22, 0x33. -/
def k1 : State := [0x11, 0x22, 0x33].foldl State.stkPush (ready { p8 with cap := 2 })

/-- K1. -/
theorem test_stkPush_overflow : (run .stkPush 0x33 ([0x11, 0x22].foldl State.stkPush (ready { p8 with cap := 2 }))) =
    { k1 with err := .ok, infl := .none } ∧ (k1.slot 0, k1.slot 1, k1.idx, k1.cnt, k1.ovf) = (0x33, 0x22, 1, 3, true) :=
  by decide +kernel
/-- K2: the third pop is stale. -/
theorem test_stkPop_stale : (fun s : State => ((run .stkPop 0 s).res, (run .stkPop 0 s.popState).res,
    (run .stkPop 0 s.popState.popState).res)) k1 = (0x33, 0x22, 0x33) := by decide +kernel
/-- K2, E4: EMPTY, RES and OVF kept. -/
theorem test_stkPop_empty : (fun s : State => (s.err, s.res, s.idx, s.statusWord s.ovf))
    (run .stkPop 0 { k1.popState.popState.popState with res := 0x33 }) = (.empty, 0x33, 0, 0x38) := by decide +kernel
/-- K3. -/
theorem test_stkReset : (fun s : State => (s.idx, s.cnt, s.ovf)) (run .stkReset 0 k1) = (0, 0, false) := by decide +kernel
/-- K8. -/
theorem test_stkSize : (run .stkSize 0 k1).res = 3 := by decide +kernel
/-- R123: CNT wraps and OVF stays. -/
theorem test_stkPush_wraps : (fun s : State => (s.cnt, s.ovf))
    (run .stkPush 7 { ready p8 with cnt := 0xFFFFFFFF, ovf := true }) = (0, true) := by decide +kernel

/-! ### Neighbor rule, selection and carve (section 2.4) -/

theorem test_nbr_8 : [0x00000000, 0x00010001, 0x00020002, 0x00030003, 0x00060006, 0x00070007, 0x00000007,
    0x00070000].map (fun a => (run .nbr a (ready p8)).res) =
    [0x206, 0x206, 0x40F, 0x40F, 0x209, 0x209, 0x20C, 0x203] := by decide +kernel
theorem test_nbr_reference : [0x009D00ED, 0x009E00EE].map (fun a => (run .nbr a (ready .reference)).res) =
    [0x40F, 0x209] := by decide +kernel
/-- P1, P2, P6 to P10. -/
theorem test_pick : [(0x00070007, 0x9F03CFB9), (0x00070007, 0x8DBDBB1E), (0x00030003, 0x018FF8EF),
    (0x00030003, 0xF049E454), (0x00030003, 0x52D60D8A), (0x00030003, 0x0DBDBB1E), (0x00030003, 0x00000002)].map
    (fun p : Word × Word => (fun s : State => (s.res, s.seed)) (run .pick p.1 { ready p8 with seed := p.2 })) =
    [(0x200, 0x7FFFFFFE), (0x213, 0x7FFFFFFF), (0x422, 0xBFFFFFFC), (0x433, 0xBFFFFFFD), (0x433, 0xFFFFFFFB),
      (0x433, 0xFFFFFFFF), (0x422, 0x838CCD13)] := by decide +kernel
/-- P3, P4, P5, E2, E3. -/
theorem test_pick_carved : ([0xBE2A6CA7, 0xACE4580C, 0x5D510995].map (fun v : Word =>
      (run .pick 0x00050003 (carved [⟨3, 3⟩] { ready p8 with seed := v })).res),
    (run .pick 0x00000008 (ready p8)).err,
    (run .pick 0x00030003 (carved [⟨3, 1⟩, ⟨5, 3⟩, ⟨3, 5⟩, ⟨1, 3⟩] (ready p8))).err) =
    ([0x301, 0x312, 0x323], .range, .nodir) := by decide +kernel
theorem test_carve : [Dir.north, .east, .south, .west].map (fun d =>
    (fun s : State => (s.res, words s 8)) (run (.carve d) 0x00030003 (ready p8))) =
    [(0x00010003, [0, 8, 8, 0, 0, 0, 0, 0]), (0x00030005, [0, 0, 0, 0x30, 0, 0, 0, 0]),
      (0x00050003, [0, 0, 0, 0, 8, 8, 0, 0]), (0x00030001, [0, 0, 0, 6, 0, 0, 0, 0])] := by decide +kernel
theorem test_carve_range : [(Dir.north, (0x00010001 : Word)), (.west, 0x00000001), (.west, 0), (.east, 0x00000006),
    (.south, 0x00070007), (.south, 0x00000008)].map (fun p => (fun s : State => (s.err, s.grid))
      (run (.carve p.1) p.2 (ready p8))) = List.replicate 6 (.range, []) := by decide +kernel

/-! ### PRNG (section 2.5) -/

theorem test_prngNext : [0x00000000, 0x00000001, 0x00000002, 0xFFFFFFFF, 0x80000000, 0x0DBDBB1E, 0x418FF8EF,
    0x52D60D8A].map (fun v : Word => (fun s : State => (s.res, s.seed)) (run .prngNext 0 { ready p8 with seed := v })) =
    [(0x3039, 0x3039), (0x41C67EA6, 0x41C67EA6), (0x838CCD13, 0x838CCD13), (0xBE39E1CC, 0xBE39E1CC),
      (0x80003039, 0x80003039), (0xFFFFFFFB, 0xFFFFFFFF), (0xFFFFFFFB, 0xFFFFFFFC), (0xFFFFFFFB, 0xFFFFFFFB)] := by
  decide +kernel
theorem test_prngNext_clampWb : (run .prngNext 0 { ready { p8 with clampWb := true } with seed := 0x0DBDBB1E }).seed =
    0xFFFFFFFB := by decide +kernel
/-- N7. -/
theorem test_prngTick : (run .prngTick 0 { ready p8 with seed := 0xFFFFFFFF }).seed = 0 := by decide +kernel
/-- N9. -/
theorem test_prngSeed : (run .prngSeed 2 (ready p8)).seed = 2 := by decide +kernel

/-! ### Generator (sections 1.2, 2.6, 2.7) -/

/-- The fixture of section 1.2. -/
theorem test_genRun_fixture : (fun s : State => (words s 8, s.cur, s.cnt, s.idx, s.seed, s.statusWord s.ovf))
    (run .genRun 0x00030003 { ready p8 with seed := 2 }) =
    ([0, 0xBE, 0xA2, 0xAA, 0xAA, 0xEA, 0x8A, 0xEE], 0x00030003, 0, 0, 0xA96353BD, 4) := by decide +kernel
/-- GEN_CENTER on 8 x 8. -/
theorem test_genCenter : (fun s : State => (words s 8, s.cur, s.seed)) (run .genCenter 0 { ready p8 with seed := 2 }) =
    ([0x7F, 0x11, 0x77, 0x44, 0x57, 0x51, 0x77, 0], 0x00040004, 0xA96353BD) := by decide +kernel
/-- CAP = 13, STICKY: the abort. -/
theorem test_genRun_abort : (fun s : State => (words s 8, s.cur, s.cnt, s.idx, s.seed, s.statusWord s.ovf, s.slot 0))
    (run .genRun 0x00030003 { ready { p8 with cap := 13 } with seed := 2 }) =
    ([0, 0x3E, 0x22, 0x2A, 0x2A, 0xEA, 0x8A, 0xEE], 0x00070007, 13, 0, 0xB0DC9567, 0x5E, 0x00070007) := by
  decide +kernel
/-- CAP = 13, COUNT: the aliased run. -/
theorem test_genRun_count : (fun s : State => (words s 8, s.cur, s.cnt, s.seed, s.statusWord s.ovf))
    (run .genRun 0x00030003 { ready { p8 with cap := 13, ovfAbortMode := .count } with seed := 2 }) =
    ([0, 0xBE, 0xA2, 0xAA, 0xAA, 0xEA, 0x8A, 0xEE], 0x00030007, 0, 0xA96353BD, 0xC) := by decide +kernel
/-- FAR_MARGIN = 4. -/
theorem test_genRun_far : (fun s : State => (words s 8, s.seed))
    (run .genRun 0x00030003 { ready { p8 with farMargin := 4 } with seed := 2 }) =
    ([0, 0x3E, 0x22, 0x2A, 0x2A, 0x3A, 0, 0], 0x6CD98D5A) := by decide +kernel
/-- RANGE leaves the grid. -/
theorem test_genRun_range : (fun s : State => (s.err, words s 1, s.seed))
    (run .genRun 0x00000008 (carved [⟨0, 0⟩] (ready p8))) = (.range, [1], 0) := by decide +kernel
/-- GEN_ACK after an abort: OVF stays. -/
theorem test_genAck : (fun s : State => s.statusWord s.ovf)
    (run .genAck 0 { ready p8 with stateR := .overflow, ovf := true, err := .stkovf }) = 8 := by decide +kernel
/-- R181's example. -/
theorem test_nop : (run .nop 0 { ready p8 with err := .empty }).err = .ok := by decide +kernel

/-! ### The host window and the step (sections 2.1 and 2.8) -/

/-- B1 to B4, B6. -/
theorem test_reads : [0x1C, 0x20, 0x00, 0x0E, 0x24].map (fun o => (ready .reference).response (.read o)) =
    [.readOk 0x00A000F0, .readOk 0x1388, .readOk 0, .readError, .readError] := by decide +kernel
/-- B5, B7, B8, B9, B10. -/
theorem test_writes : ((ready p8).response (.write 0x04 0x12345678 0b0001),
    ((ready p8).hostAccess (.write 0x04 0x12345678 0b0001)).arg, ((ready p8).hostAccess (.write 0x08 0x1234 0xF)).res,
    (({ ready p8 with cmdLost := true } : State).hostAccess (.write 0x0C 0xFFFFFEFF 0xF)).cmdLost,
    (({ ready p8 with cmdLost := true } : State).hostAccess (.write 0x0C 0x100 0xF)).cmdLost,
    ((ready p8).hostAccess (.write 0x04 0x00500078 0xF)).arg) =
    (.writeError, 0, 0, true, false, 0x00500078) := by decide +kernel
/-- B10: the lanes of 0x00500078. -/
theorem test_lanes : [0, 1, 2, 3].map (wordByte 0x00500078) = [0x78, 0x00, 0x50, 0x00] := by decide +kernel
/-- H3: a CMD write during the post-reset clear is dropped. -/
theorem test_step_dropped : (fun s : State => (s.infl, s.cmdLost, s.responses))
    (after (step { State.reset with pending := [asmIssue .nop] })) = (.resetClear, true, [.writeOk]) := by decide +kernel
/-- Issue latches ARG (R243). -/
theorem test_step_issue : (after (step { ready p8 with arg := 5, pending := [asmIssue .gridRead] })).infl =
    .command 2 5 := by decide +kernel
/-- The placed word is run by the next step, from reset. -/
theorem test_step_placed : (after (step (State.reset.withFetchWord 32 0x0000001A))).err = .ok ∧
    (after (step (State.reset.withFetchWord 32 0x00000005))).err = .illegal := by decide +kernel
/-- H9: a reset falls while a command is in flight. -/
theorem test_step_reset : (fun s : State => (s.infl, s.seed, s.epoch))
    (after (step { flight .genCenter 0 (ready p8) with seed := 7, pending := [.reset] })) = (.resetClear, 0, 1) := by
  decide +kernel
/-- A build outside R8 is refused. -/
theorem test_step_illegalBuild : step (State.powerOn { p8 with cap := 0 }) = .refused .illegalBuild := by
  unfold step; rfl

/-! ### Witnesses: the hypotheses of the statements can be met, at boundary values of each clause -/

/-- An aligned state of a legal build with GRID_READ in flight. -/
def w0 : State := flight .gridRead 0x00070007 (ready p8)

theorem witness_IllegalWordsCompleteWithIllegal : (ready p8).infl = .none ∧
    (fun s : State => s.cfg.legal = true ∧ s.pending = [] ∧ s.infl = .command 5 0)
      { ready p8 with infl := .command 5 0 } ∧ ¬ ∃ i, decode 5 = .ok i := by
  refine ⟨rfl, ⟨by decide, rfl, rfl⟩, ?_⟩
  rintro ⟨i, h⟩
  have e : decode 5 = .error .unknownOpcode := by decide
  rw [e] at h; cases h
theorem witness_StepRunsTheDecodedCommand : w0.cfg.legal = true ∧ w0.infl = .command 2 0x00070007 ∧
    decode 2 = .ok .gridRead ∧ w0.pending = [] ∧ ({ w0 with pending := [.seq] } : State).pending = [.seq] := by
  decide
theorem witness_StepTakesTheNextEvent : w0.cfg.legal = true ∧
    ({ w0 with pending := [asmRd .arg] } : State).pending = [.host (.read 0x04)] ∧
    ({ w0 with pending := [.reset] } : State).pending = [.reset] ∧
    ({ ready p8 with pending := [.seq] } : State).pending = [.seq] ∧ (ready p8).infl = .none ∧
    (ready p8).pending = [] := by decide
theorem witness_PlacedWordRunsNext : State.reset.cfg.legal = true := by decide
theorem witness_OperandIsTheLatchedWord : w0.infl = .command 2 0x00070007 ∧ (⟨65535, 0⟩ : Pos).x < 65536 ∧
    (⟨65535, 65535⟩ : Pos).y < 65536 := by decide
/-- For GRID_READ, GRID_WRITE and NBR: (W-1, H-1) in range, (W, 0) and (0, H) not. -/
theorem witness_cell_operands : unpackPos w0.operand = ⟨7, 7⟩ ∧ 7 < w0.cfg.w ∧ 7 < w0.cfg.h ∧
    unpackPos (flight .gridRead 0x00000008 (ready p8)).operand = ⟨8, 0⟩ ∧ p8.w ≤ 8 ∧
    unpackPos (flight .gridRead 0x00080000 (ready p8)).operand = ⟨0, 8⟩ ∧ p8.h ≤ 8 := by decide +kernel
/-- GRID_RDWORD: k = 7, y = 159 is the last word of the reference instance; k = 8 and y = 160 are out of range. -/
theorem witness_GridRdword : (flight .gridRdword 0x009F0007 (ready .reference)).wordOperandK = 7 ∧
    (flight .gridRdword 0x009F0007 (ready .reference)).wordOperandY = 159 ∧ 159 < Params.reference.h ∧
    7 < (Params.reference.w + 31) / 32 ∧ (Params.reference.w + 31) / 32 ≤ 8 ∧ Params.reference.h ≤ 160 := by
  decide +kernel
theorem witness_StkPush : (ready p8).idx < (ready p8).cfg.cap := by decide
theorem witness_StkPop : (ready p8).cnt = 0 ∧ k1.cnt ≠ 0 ∧ k1.idx < k1.cfg.cap := by decide +kernel
theorem witness_StackStops : p8.cap ≤ ({ ready p8 with idx := 5000, cnt := 1 } : State).idx ∧
    ({ ready p8 with idx := 5000, cnt := 1 } : State).cnt ≠ 0 := by decide
theorem witness_PopsAfterOverflowAlias : k1.cfg.legal = true ∧ ([0x11, 0x22, 0x33] : List Word).length < 2 ^ 32 ∧
    1 ≤ 3 ∧ 3 ≤ ([0x11, 0x22, 0x33] : List Word).length := by decide
theorem witness_representsStack_nil : (ready p8).representsStack [] :=
  ⟨by decide, by decide, by decide, by intro i v h; simp at h⟩
theorem witness_representsStack_cons : ((ready p8).stkPush 5).representsStack [5] ∧
    ((ready p8).stkPush 5).cfg.legal = true ∧ ([5] : List Word).length < ((ready p8).stkPush 5).cfg.cap := by
  refine ⟨⟨by decide +kernel, by decide +kernel, by decide +kernel, ?_⟩, by decide, by decide⟩
  intro i v h
  cases i with
  | zero =>
    have hv : v = 5 := by simpa using h.symm
    rw [hv]; decide +kernel
  | succ i => simp at h
theorem witness_StackIsLifo_others : Instr.nop ∉ [Instr.stkReset, .stkPush, .stkPop, .genRun, .genCenter] ∧
    exec .nop (ready p8) = .next (ready p8).finish ∧ exec .stkReset (ready p8) = .next (ready p8).stkReset.finish := by
  exact ⟨by decide, rfl, rfl⟩
/-- PICK: out of range, no direction, and a mask that is not 0. -/
theorem witness_Pick : p8.w ≤ (unpackPos (flight .pick 8 (ready p8)).operand).x ∧
    (carved [⟨3, 1⟩, ⟨5, 3⟩, ⟨3, 5⟩, ⟨1, 3⟩] (ready p8)).nbrMask ⟨3, 3⟩ = 0 ∧ (ready p8).nbrMask ⟨7, 7⟩ ≠ 0 := by
  decide +kernel
/-- CARVE: from (7, 2) north reaches the edge row 0; from (7, 7) east leaves the grid. -/
theorem witness_Carve : p8.legal = true ∧ unpackPos (flight (.carve .north) 0x00020007 (ready p8)).operand = ⟨7, 2⟩ ∧
    (0 : Int) ≤ 2 + 2 * unitY .north ∧ (2 : Int) + 2 * unitY .north < p8.h ∧
    ¬ ((7 : Int) + 2 * unitX .east < p8.w) := by decide +kernel
theorem witness_ReportedDirections : p8.legal = true ∧ inGrid p8 (unpackPos w0.operand) = true ∧
    (w0.nbrMask (unpackPos w0.operand)).getLsbD (dirCode .north).toNat = true := by decide +kernel
theorem witness_IndexClamp : 1 ≤ 1 ∧ 1 ≤ 4 ∧ 4 ≤ 4 ∧ (ready p8).nbrMask ⟨3, 3⟩ ≠ 0 := by decide +kernel
theorem witness_PrngNext : 0xFFFFFFFF = (1103515245 * ({ ready p8 with seed := 0x0DBDBB1E } : State).seed.toNat + 12345) %
    2 ^ 32 := by decide +kernel
/-- The generator statements: a legal build and a start in the grid, both overflow modes. -/
theorem witness_GenRun : (flight .genRun 0x00070007 (ready p8)).cfg.legal = true ∧
    inGrid p8 (unpackPos (flight .genRun 0x00070007 (ready p8)).operand) = true ∧ p8.ovfAbortMode = .sticky ∧
    p8.nearMargin = 2 ∧ p8.farMargin = 3 ∧ ({ p8 with ovfAbortMode := .count } : Params).legal = true := by
  decide +kernel
theorem witness_GenRun_range : p8.w ≤ (unpackPos (flight .genRun 8 (ready p8)).operand).x ∧
    p8.h ≤ (unpackPos (flight .genRun 0x00080000 (ready p8)).operand).y := by decide +kernel
/-- A generation that ends in DONE without overflow (for the statements about such an end). -/
theorem witness_GenRun_done : (fun s : State => (goesOn (exec .genRun s), (after (exec .genRun s)).stateR,
    (after (exec .genRun s)).ovf)) (flight .genRun 0x00030003 { ready p8 with seed := 2 }) = (true, .done, false) := by
  decide +kernel
theorem witness_LoopBounds : p8.legal = true ∧ inGrid p8 ⟨7, 7⟩ = true ∧ p8.w * p8.h ≤ 64 ∧ p8.w * p8.h + 1 ≤ 65 := by
  decide
/-- Two states that differ in grid, stack contents and results and agree in build, seed and operand. -/
theorem witness_GenerationIsDeterministic : (fun s s' : State => s.cfg = s'.cfg ∧ s.seed = s'.seed ∧
    s.operand = s'.operand ∧ s.grid ≠ s'.grid ∧ s.slots ≠ s'.slots) (flight .genRun 0x00030003 (ready p8))
    (flight .genRun 0x00030003 ((carved [⟨0, 0⟩] (ready p8)).stkPush 5)) := by decide +kernel
theorem witness_BadAccesses : (0x0E : BitVec 6).toNat % 4 ≠ 0 ∧ 0x24 ≤ (0x24 : BitVec 6).toNat ∧
    0x24 ≤ (0x3F : BitVec 6).toNat ∧ (0b0111 : BitVec 4) ≠ 0b1111 := by decide
theorem witness_ready_and_busy : (ready p8).infl = .none ∧ State.reset.infl ≠ .none ∧
    w0.infl = .command 2 0x00070007 := by decide
theorem witness_Status_gen : (flight .genRun 0 (ready p8)).infl = .command 0x20 0 ∧
    (flight .genCenter 0 (ready p8)).infl = .command 0x21 0 := by decide
theorem witness_Errors : exec .stkPop (ready p8) = .next ((ready p8).raiseError .empty) ∧
    ((ready p8).raiseError .empty).err ∈ [ErrCode.illegal, .range, .empty, .nodir] := ⟨rfl, by decide⟩
/-- Each code of R211 that a command can end with. -/
theorem witness_EachError : [(run .gridRead 8 (ready p8)).err, (run .stkPop 0 (ready p8)).err,
    (run .pick 0x00030003 (carved [⟨3, 1⟩, ⟨5, 3⟩, ⟨3, 5⟩, ⟨1, 3⟩] (ready p8))).err,
    (run .genRun 0x00030003 { ready { p8 with cap := 13 } with seed := 2 }).err] = [.range, .empty, .nodir, .stkovf] := by
  decide +kernel
theorem witness_ResetSetsEveryElement : ({ w0 with pending := [.reset] } : State).cfg.legal = true ∧
    ({ w0 with pending := [.reset] } : State).pending = [.reset] := by decide
theorem witness_PostResetClear : State.reset.cfg.legal = true ∧ State.reset.pending = [] ∧
    State.reset.infl = .resetClear := by decide
theorem witness_ResetDiscards : w0.cfg = (ready p8).cfg ∧ w0.pending = (ready p8).pending ∧
    w0.responses = (ready p8).responses ∧ w0.draws = (ready p8).draws ∧ w0.epoch = (ready p8).epoch ∧ w0 ≠ ready p8 := by
  decide
/-- A step from a state with both invariants that answers a next state. -/
theorem witness_invariants : GridInv (ready p8) ∧ StackInv (ready p8) ∧ (ready p8).stateRLegal ∧
    step (ready p8) = .next (ready p8) := by
  refine ⟨⟨by decide, by decide, by decide, ?_⟩, ⟨by decide, by decide, by decide, by decide, ?_, ?_⟩, ?_, ?_⟩
  · intro y k b _ _ _ _
    have : (ready p8).gridWord (y * wpr (ready p8).cfg + k) = 0 := gridWord_gridClear (ready p8) _
    rw [this]; simp
  · intro h; exact absurd h (by decide)
  · intro i h; exact absurd h (by simp [ready, State.powerOn])
  · intro h; cases h
  · unfold step; rfl
theorem witness_LegalMachine : (ready p8).cfg.legal = true ∧ (ready p8).idx < (ready p8).cfg.cap := by decide
/-- Steps that change SEED, CUR and STATE_R. -/
theorem witness_changes : (fun s : State => ((after (step s)).seed ≠ s.seed ∧ (after (step s)).cur ≠ s.cur ∧
    (after (step s)).stateR ≠ s.stateR)) (flight .genRun 0x00030003 { ready p8 with seed := 2 }) := by decide +kernel
/-- Steps that clear and set OVF and CMDLOST. -/
theorem witness_sticky : (after (step (flight .stkReset 0 { ready p8 with ovf := true }))).ovf = false ∧
    (after (step (flight .stkPush 0 { ready p8 with cnt := 5000 }))).ovf = true ∧
    (after (step { ready p8 with cmdLost := true, pending := [asmClrLost] })).cmdLost = false ∧
    (after (step { State.reset with pending := [asmIssue .nop] })).cmdLost = true := by decide +kernel
/-- The clause of R126 about one push and one pop. -/
theorem witness_PopsAlias_single : k1.idx < k1.cfg.cap ∧ k1.cnt ≠ 0 ∧ (ready p8).idx < (ready p8).cfg.cap := by
  decide +kernel
/-- The pad-bit clause of GRID_RDWORD: bit 8 of row 7 of the 8 x 8 build (its grid invariant is in
`witness_invariants`), bit 31 of the last word of the reference build. -/
theorem witness_GridRdword_pads : 7 < (ready p8).cfg.h ∧ 0 < ((ready p8).cfg.w + 31) / 32 ∧ 8 < 32 ∧
    (ready p8).cfg.w ≤ 32 * 0 + 8 ∧ Params.reference.w ≤ 32 * 7 + 31 := by decide
theorem witness_StkSize : k1.infl = .none ∧ k1.response (.read 0x18) = .readOk 3 := by decide +kernel
theorem witness_ErrorsArePrecise_illegal : ∃ e, decode 5 = .error e := ⟨.unknownOpcode, by decide⟩
/-- R105: one row of the render pass and the cells left of W it plots. -/
theorem test_render : (asmRender { p8 with h := 1 } =
    [asmArg 0, asmIssue .gridRdword, .seq, asmRd .status, asmRd .res]) ∧
    (renderCell p8 0 7 0x80, renderCell p8 0 8 0x80) = (some true, none) := by decide +kernel
/-- The stored form of the completion of an illegal word and of the post-reset clear. -/
theorem witness_stored_seq : (fun s : State => s.cfg.legal = true ∧ s.infl = .command 5 0 ∧ s.pending = [.seq])
      { ready p8 with infl := .command 5 0, pending := [.seq] } ∧
    (fun s : State => s.cfg.legal = true ∧ s.infl = .resetClear ∧ s.pending = [.seq])
      { State.reset with pending := [.seq] } := by decide
/-- The completion of PRNG_TICK, by itself and as a stored event, changes SEED; with a host access next the step is no
completion, and SEED stays. -/
theorem witness_completing : (flight .prngTick 0 (ready p8)).completing [.prngTick] ∧
    ({ flight .prngTick 0 (ready p8) with pending := [.seq] } : State).completing [.prngTick] ∧
    ¬ ({ flight .prngTick 0 (ready p8) with pending := [asmRd .seed] } : State).completing [.prngTick] ∧
    (after (step { flight .prngTick 0 (ready p8) with pending := [.seq] })).seed = 1 ∧
    (after (step { flight .prngTick 0 (ready p8) with pending := [asmRd .seed] })).seed = 0 := by
  refine ⟨⟨.inl rfl, _, _, _, rfl, rfl, by decide⟩, ⟨.inr ⟨_, rfl⟩, _, _, _, rfl, rfl, by decide⟩, ?_, by decide +kernel,
    by decide +kernel⟩
  rintro ⟨h | ⟨rest, h⟩, -⟩
  · exact absurd h (by simp)
  · simp [asmRd] at h
/-- The fixture of section 1.2 has carved cells on the lattice of its start and off it, and its start has an edge. -/
theorem witness_CarvedCells : (fun s : State => (s.gridRead ⟨3, 3⟩, onLattice ⟨3, 3⟩ ⟨7, 7⟩, s.gridRead ⟨7, 7⟩,
      onLattice ⟨3, 3⟩ ⟨6, 7⟩, s.gridRead ⟨6, 7⟩, s.gridRead ⟨5, 7⟩))
    (run .genRun 0x00030003 { ready p8 with seed := 2 }) = (true, true, true, false, true, true) := by decide +kernel
theorem witness_mazeEdge : mazeEdge p8 (fun _ => true) ⟨7, 2⟩ ⟨7, 0⟩ := ⟨.north, by decide, by decide, by decide, rfl, rfl, rfl⟩
/-- A read of CMD while busy (R40). -/
theorem test_read_cmd_busy : State.reset.response (.read 0x00) = .readOk 0 := by decide +kernel

end Sys2Proof.Tests
end

section
/-! PROOF. Which steps are refused (spec/00_scope.md R8). The test of the build's parameters is the only refusal: it is
followed through the commands, the completion, the SEQ step and the next event, none of which refuses. -/

namespace Sys2Proof.Machine

/-- Every command has a meaning in every state: it answers a next state or the fault of a slot that does not exist. -/
theorem exec_ne_refused (i : Instr) (s : State) (r : Refusal) : exec i s ≠ .refused r := by
  cases i with
  | nop => simp [exec, execNop]
  | gridClear => simp [exec, execGridClear]
  | gridRead => simp only [exec, execGridRead]; split <;> simp
  | gridWrite v => simp only [exec, execGridWrite]; split <;> simp
  | gridRdword => simp only [exec, execGridRdword]; split <;> simp
  | stkReset => simp [exec, execStkReset]
  | stkPush => simp only [exec, execStkPush]; split <;> simp
  | stkPop =>
    simp only [exec, execStkPop]
    split
    · simp
    · split <;> simp
  | stkSize => simp [exec, execStkSize]
  | nbr => simp only [exec, execNbr]; split <;> simp
  | pick =>
    simp only [exec, execPick]
    split
    · split <;> simp
    · simp
  | carve d =>
    simp only [exec, execCarve]
    split
    · split <;> simp
    · simp
  | prngNext => simp [exec, execPrngNext]
  | prngTick => simp [exec, execPrngTick]
  | prngSeed => simp [exec, execPrngSeed]
  | genRun => simp only [exec, execGenRun]; split <;> simp
  | genCenter => simp [exec, execGenCenter]
  | genAck => simp [exec, execGenAck]

/-- An illegal word completes with ILLEGAL (R85, R244), so no word at all is refused. -/
theorem completeWord_ne_refused (c : Word) (s : State) (r : Refusal) : completeWord c s ≠ .refused r := by
  unfold completeWord
  split
  case h_1 i _ => exact exec_ne_refused i s r
  case h_2 => simp

theorem seqStep_ne_refused (s : State) (r : Refusal) : seqStep s ≠ .refused r := by
  unfold seqStep
  split
  case h_1 => simp
  case h_2 => simp
  case h_3 c _ _ => exact completeWord_ne_refused c s r

theorem takeEvent_ne_refused (e : Event) (s : State) (r : Refusal) : takeEvent e s ≠ .refused r := by
  cases e with
  | host a => simp [takeEvent]
  | seq => exact seqStep_ne_refused s r
  | reset => simp [takeEvent]

theorem nextStep_ne_refused (s : State) (r : Refusal) : nextStep s ≠ .refused r := by
  unfold nextStep
  split
  case h_1 => exact seqStep_ne_refused s r
  case h_2 e rest _ => exact takeEvent_ne_refused e _ r

/-- The one refusal of a step (R8): the build is not legal, and the reason says so. -/
theorem step_refused_iff (s : State) (r : Refusal) :
    step s = .refused r ↔ r = .illegalBuild ∧ ¬ s.cfg.legal = true := by
  unfold step
  split
  case isTrue h => simp [h, nextStep_ne_refused]
  case isFalse h => simp [h, eq_comm]

/-- Settles O8: past the test of the build no step refuses, and `Params.legal` is the list of ranges of R8. -/
theorem onlyLegalBuildsRun : Obligations.OnlyLegalBuildsRun := by
  intro s
  rw [step_refused_iff, Params.legal_iff]
  exact and_iff_right rfl

end Sys2Proof.Machine
end

section
/-! SUPPORT. What the decoder accepts, said once: a word that decodes is the word the encoder writes (spec/30_encoding.md
R80 to R84). From it, which words STATUS shows as a generation (spec/10_state.md R43). -/

namespace Sys2Proof.Machine

/-- The four fields of R81 cover a word. -/
theorem wordOf_fields {c : Word} (hr : fieldRsv c = 0) : wordOf (fieldOpc c) (fieldV c) (fieldD c) = c := by
  have hsplit : fieldRsv c ++ fieldD c ++ BitVec.ofBool (fieldV c) ++ fieldOpc c = c := by
    apply BitVec.eq_of_getLsbD_eq
    intro i hi
    simp only [fieldRsv, fieldD, fieldV, fieldOpc, BitVec.getLsbD_append, BitVec.getLsbD_extractLsb',
      BitVec.getLsbD_ofBool]
    grind
  rwa [hr] at hsplit

theorem decodePlain_eq_ok_iff {c : Word} {i j : Instr} :
    decodePlain c i = .ok j ↔ fieldV c = false ∧ fieldD c = 0 ∧ i = j := by
  unfold decodePlain
  split
  case isTrue hv => simp [hv]
  case isFalse hv => split <;> simp_all

/-- The command of a word without operand fields is the one its opcode names. -/
theorem encode_of_decodePlain {c : Word} {i j : Instr} {n : Nat} (hr : fieldRsv c = 0)
    (hn : (fieldOpc c).toNat = n) (hi : encode i = wordOf (BitVec.ofNat 8 n) false 0) (h : decodePlain c i = .ok j) :
    encode j = c := by
  obtain ⟨hv, hd, rfl⟩ := decodePlain_eq_ok_iff.mp h
  rw [hi, ← hn, BitVec.ofNat_toNat, BitVec.setWidth_eq, ← hv, ← hd, wordOf_fields hr]

theorem dirCode_dirOfCode (d : BitVec 2) : dirCode (dirOfCode d) = d := by
  revert d; decide

/-- No bit of a word is dropped by the decoder (R84). -/
theorem encode_of_decode {c : Word} {i : Instr} (h : decode c = .ok i) : encode i = c := by
  unfold decode at h
  split at h
  case isTrue => cases h
  case isFalse hrsv =>
    have hr : fieldRsv c = 0 := not_not.mp hrsv
    split at h
    case h_4 hk =>
      split at h
      case isTrue => cases h
      case isFalse hd =>
        obtain rfl := Except.ok.inj h
        rw [encode, ← not_not.mp hd, ← BitVec.eq_of_toNat_eq (y := 0x03) hk, wordOf_fields hr]
    case h_12 hk =>
      split at h
      case isTrue => cases h
      case isFalse hv =>
        obtain rfl := Except.ok.inj h
        rw [encode, dirCode_dirOfCode, ← eq_false_of_ne_true hv, ← BitVec.eq_of_toNat_eq (y := 0x12) hk,
          wordOf_fields hr]
    case h_19 => cases h
    all_goals rename_i hk; exact encode_of_decodePlain hr hk rfl h

/-- The words STATUS shows as CARVING are the two of R83, GEN_RUN and GEN_CENTER. -/
theorem isGenWord_iff (c : Word) : isGenWord c = true ↔ c = 0x20 ∨ c = 0x21 := by
  constructor
  · intro h
    unfold isGenWord at h
    split at h
    case h_1 hd => exact .inl (encode_of_decode hd).symm
    case h_2 hd => exact .inr (encode_of_decode hd).symm
    case h_3 => cases h
  · rintro (rfl | rfl) <;> rfl

end Sys2Proof.Machine
end

section
/-! SUPPORT. The host window, said once: which offsets have a register, what one access does in each of its cases, and the
fields of the STATUS word (spec/20_memory.md R50 to R56; spec/10_state.md R43, R49). -/

namespace Sys2Proof.Machine

/-! ### Address decode and one access -/

/-- Misaligned and reserved offsets have no register (R49, R52, R54), and no others. -/
theorem regAt_eq_none_iff (off : BitVec 6) : regAt off = none ↔ off.toNat % 4 ≠ 0 ∨ 0x24 ≤ off.toNat := by
  unfold regAt
  split
  case h_10 => simp only [true_iff]; grind
  all_goals simp only [reduceCtorEq, false_iff]; omega

theorem hostAccess_read {off : BitVec 6} {r : Reg} (s : State) (h : regAt off = some r) :
    s.hostAccess (.read off) =
      { s with draws := s.draws + s.readDraws r, responses := .readOk (s.readValue r) :: s.responses } := by
  simp [State.hostAccess, State.accessEffect, State.response, h]

/-- A full-strobe write of a register (R53, R56). -/
theorem hostAccess_write {off : BitVec 6} {r : Reg} (s : State) (data : Word) (h : regAt off = some r) :
    s.hostAccess (.write off data 0b1111) = { s.writeReg data r with responses := .writeOk :: s.responses } := by
  simp [State.hostAccess, State.accessEffect, State.response, h]

theorem hostAccess_read_unmapped {off : BitVec 6} (s : State) (h : regAt off = none) :
    s.hostAccess (.read off) = { s with responses := .readError :: s.responses } := by
  simp [State.hostAccess, State.accessEffect, State.response, h]

theorem hostAccess_write_unmapped {off : BitVec 6} (s : State) (data : Word) (strobe : BitVec 4)
    (h : regAt off = none) :
    s.hostAccess (.write off data strobe) = { s with responses := .writeError :: s.responses } := by
  simp [State.hostAccess, State.accessEffect, State.response, h]

/-- A write that is not of the whole word is refused at every offset (R51). -/
theorem hostAccess_write_partial {strobe : BitVec 4} (s : State) (off : BitVec 6) (data : Word)
    (h : strobe ≠ 0b1111) :
    s.hostAccess (.write off data strobe) = { s with responses := .writeError :: s.responses } := by
  have hpartial : ¬ strobe = 0xF#4 := h
  simp only [State.hostAccess, State.accessEffect, State.response, if_neg hpartial]

/-- Bit 8 of a STATUS write is its one effect (R43). -/
theorem writeReg_status (s : State) (v : Word) :
    s.writeReg v .status = { s with cmdLost := s.cmdLost && !v.getLsbD 8 } := by
  simp only [State.writeReg]
  split
  case isTrue hv => simp only [hv, Bool.not_true, Bool.and_false]
  case isFalse hv => simp only [eq_false_of_ne_true hv, Bool.not_false, Bool.and_true]

/-! ### BUSY and the STATE view -/

theorem State.busy_iff (s : State) : s.busy = true ↔ s.infl ≠ .none := by
  unfold State.busy
  split <;> simp_all

theorem State.busy_eq_false {s : State} (h : s.infl = .none) : s.busy = false := by
  simp [State.busy, h]

theorem State.stateView_of_generation {s : State} (h : ∃ a, s.infl = .command 0x20 a ∨ s.infl = .command 0x21 a) :
    s.stateView = .carving := by
  obtain ⟨a, h | h⟩ := h <;> simp [State.stateView, h, isGenWord_iff]

theorem State.stateView_of_not_generation {s : State}
    (h : ¬ ∃ a, s.infl = .command 0x20 a ∨ s.infl = .command 0x21 a) : s.stateView = s.stateR := by
  unfold State.stateView
  split
  case h_1 c a hc =>
    rw [if_neg]
    intro hg
    obtain rfl | rfl := (isGenWord_iff c).mp hg
    · exact h ⟨a, .inl hc⟩
    · exact h ⟨a, .inr hc⟩
  case h_2 => rfl
  case h_3 => rfl

/-! ### The fields of the STATUS word -/

/-- The layout of R43, bit by bit from below. -/
theorem State.getLsbD_statusWord (s : State) (o : Bool) (i : Nat) :
    (s.statusWord o).getLsbD i =
      if i < 1 then s.busy
      else if i < 3 then (genStateCode s.stateView).getLsbD (i - 1)
      else if i < 4 then o
      else if i < 8 then (errCode s.err).getLsbD (i - 4)
      else if i < 9 then s.cmdLost
      else false := by
  simp only [State.statusWord, BitVec.getLsbD_append, BitVec.getLsbD_ofBool, BitVec.getLsbD_zero]
  grind

theorem State.statusWord_busy (s : State) (o : Bool) : (s.statusWord o).getLsbD 0 = s.busy :=
  s.getLsbD_statusWord o 0

theorem State.statusWord_state (s : State) (o : Bool) :
    (s.statusWord o).extractLsb' 1 2 = genStateCode s.stateView := by
  apply BitVec.eq_of_getLsbD_eq
  intro i hi
  rw [BitVec.getLsbD_extractLsb', getLsbD_statusWord]
  grind

theorem State.statusWord_ovf (s : State) (o : Bool) : (s.statusWord o).getLsbD 3 = o :=
  s.getLsbD_statusWord o 3

theorem State.statusWord_err (s : State) (o : Bool) : (s.statusWord o).extractLsb' 4 4 = errCode s.err := by
  apply BitVec.eq_of_getLsbD_eq
  intro i hi
  rw [BitVec.getLsbD_extractLsb', getLsbD_statusWord]
  grind

theorem State.statusWord_cmdLost (s : State) (o : Bool) : (s.statusWord o).getLsbD 8 = s.cmdLost :=
  s.getLsbD_statusWord o 8

theorem State.statusWord_reserved (s : State) (o : Bool) : (s.statusWord o).extractLsb' 9 23 = 0 := by
  apply BitVec.eq_of_getLsbD_eq
  intro i hi
  rw [BitVec.getLsbD_extractLsb', getLsbD_statusWord]
  grind

end Sys2Proof.Machine
end

section
/-! PROOF. The statements of the host window: accesses that get ERROR (spec/10_state.md R49; spec/20_memory.md R51, R52)
and the STATUS register (spec/10_state.md R43). -/

namespace Sys2Proof.Machine

/-- Settles O40: an offset without a register and a partial strobe are the two ways to ERROR, and neither reaches a
register. -/
theorem badAccessesGetErrorAndChangeNothing : Obligations.BadAccessesGetErrorAndChangeNothing := by
  refine ⟨rfl, fun s off data strobe => ⟨fun hoff => ?_, hostAccess_write_partial s off data⟩⟩
  have hnone : regAt off = none := (regAt_eq_none_iff off).mpr hoff
  exact ⟨hostAccess_read_unmapped s hnone, hostAccess_write_unmapped s data strobe hnone⟩

/-- Settles O43: a read answers the STATUS word, whose fields are read off one by one; a write goes through
`writeReg_status`. -/
theorem statusShowsItsFields : Obligations.StatusShowsItsFields := by
  intro s
  refine ⟨⟨_, _, hostAccess_read (r := .status) s rfl, ?_⟩, fun data => ?_⟩
  · refine ⟨?busy, ?generation, ?otherwise, ?ready, State.statusWord_err s _, State.statusWord_cmdLost s _,
      State.statusWord_reserved s _⟩
    case busy => rw [State.readValue, State.statusWord_busy, State.busy_iff]
    case generation =>
      intro hgen
      rw [State.readValue, State.statusWord_state, State.stateView_of_generation hgen, genStateCode]
    case otherwise =>
      intro hgen
      rw [State.readValue, State.statusWord_state, State.stateView_of_not_generation hgen]
    case ready =>
      intro hready
      simp only [State.readValue, State.readDraws, State.statusWord_ovf, State.busy_eq_false hready]
      exact ⟨rfl, rfl⟩
  · rw [hostAccess_write (r := .status) s data rfl, writeReg_status]

end Sys2Proof.Machine
end

section
/-! SUPPORT. Which words are commands, said in three ways: the word is the encoder's, it is on the list of R83, its fields
are legal by R85 (spec/30_encoding.md R82 to R85). -/

namespace Sys2Proof.Machine

/-! ### The decoder is the inverse of the encoder -/

theorem decode_encode (i : Instr) : decode (encode i) = .ok i := by
  cases i with
  | gridWrite v => cases v <;> rfl
  | carve d => cases d <;> rfl
  | _ => rfl

/-- The one word of a command (R83). -/
theorem decode_eq_ok_iff {c : Word} {i : Instr} : decode c = .ok i ↔ c = encode i := by
  constructor
  · intro h
    exact (encode_of_decode h).symm
  · rintro rfl
    exact decode_encode i

theorem exists_decode_error_iff (c : Word) : (∃ e, decode c = .error e) ↔ ¬ ∃ i, decode c = .ok i := by
  cases decode c <;> simp

/-! ### The list of the command words -/

/-- Every command with every value of its fields, in the order of R83. -/
def commands : List Instr :=
  [.nop, .gridClear, .gridRead, .gridWrite false, .gridWrite true, .gridRdword, .stkReset, .stkPush, .stkPop, .stkSize,
    .nbr, .pick, .carve .north, .carve .east, .carve .south, .carve .west, .prngNext, .prngTick, .prngSeed, .genRun,
    .genCenter, .genAck]

theorem mem_commands (i : Instr) : i ∈ commands := by
  cases i with
  | gridWrite v => cases v <;> decide
  | carve d => cases d <;> decide
  | _ => decide

theorem map_encode_commands : commands.map encode =
    [0x00000000, 0x00000001, 0x00000002, 0x00000003, 0x00000103, 0x00000004, 0x00000008, 0x00000009, 0x0000000A,
      0x0000000B, 0x00000010, 0x00000011, 0x00000012, 0x00000212, 0x00000412, 0x00000612, 0x00000018, 0x00000019,
      0x0000001A, 0x00000020, 0x00000021, 0x00000022] := rfl

theorem exists_decode_ok_iff_mem (c : Word) : (∃ i, decode c = .ok i) ↔ c ∈ commands.map encode := by
  simp only [decode_eq_ok_iff, List.mem_map, mem_commands, true_and, eq_comm (a := c)]

/-! ### `Legal(c)` -/

/-- The four clauses of `Legal(c)` (R85). -/
theorem legalWord_iff (c : Word) : legalWord c = true ↔
    fieldRsv c = 0 ∧ fieldOpc c ∈ opcodes ∧ (fieldOpc c ≠ 0x03 → fieldV c = false) ∧
      (fieldOpc c ≠ 0x12 → fieldD c = 0) := by
  simp only [legalWord, Bool.and_eq_true, Bool.or_eq_true, Bool.not_eq_true', beq_iff_eq, List.contains_iff_mem,
    or_iff_not_imp_left, and_assoc, ne_eq]

theorem legalWord_encode (i : Instr) : legalWord (encode i) = true := by
  cases i with
  | gridWrite v => cases v <;> rfl
  | carve d => cases d <;> rfl
  | _ => rfl

/-- Each opcode of R82 names a command, by the word with V = 0 and D = 0. -/
theorem exists_encode_of_mem_opcodes : ∀ o ∈ opcodes, ∃ i ∈ commands, encode i = wordOf o false 0 := by
  decide

/-- Legal fields are those of a command: V is free in GRID_WRITE, D is free in CARVE, and elsewhere the opcode alone names
the command (R84). -/
theorem exists_encode_of_legalWord {c : Word} (h : legalWord c = true) : ∃ i, encode i = c := by
  obtain ⟨hrsv, hopc, hv, hd⟩ := (legalWord_iff c).mp h
  rw [← wordOf_fields hrsv]
  by_cases hwrite : fieldOpc c = 0x03
  · refine ⟨.gridWrite (fieldV c), ?_⟩
    rw [encode, hwrite, hd (by rw [hwrite]; decide)]
  by_cases hcarve : fieldOpc c = 0x12
  · refine ⟨.carve (dirOfCode (fieldD c)), ?_⟩
    rw [encode, dirCode_dirOfCode, hcarve, hv hwrite]
  obtain ⟨i, -, hi⟩ := exists_encode_of_mem_opcodes _ hopc
  exact ⟨i, by rw [hi, hv hwrite, hd hcarve]⟩

/-- The decoder accepts exactly the words R85 calls legal. -/
theorem exists_decode_ok_iff_legalWord (c : Word) : (∃ i, decode c = .ok i) ↔ legalWord c = true := by
  simp only [decode_eq_ok_iff]
  constructor
  · rintro ⟨i, rfl⟩
    exact legalWord_encode i
  · intro h
    obtain ⟨i, hi⟩ := exists_encode_of_legalWord h
    exact ⟨i, hi.symm⟩

end Sys2Proof.Machine
end

section
/-! SUPPORT. Issue and the SEQ step, one equation per case: where the SEQ step comes next, by itself or stored, and what it
does with a command word in flight (spec/70_reset_and_hazards.md R243, R244, R248). -/

namespace Sys2Proof.Machine

theorem State.writeCmd_of_ready {s : State} (c : Word) (h : s.infl = .none) :
    s.writeCmd c = { s with infl := .command c s.arg } := by
  simp [State.writeCmd, State.busy_eq_false h]

theorem nextStep_of_pending_nil {s : State} (h : s.pending = []) : nextStep s = seqStep s := by
  simp [nextStep, h]

theorem nextStep_of_pending_seq {s : State} {rest : List Event} (h : s.pending = .seq :: rest) :
    nextStep s = seqStep { s with pending := rest } := by
  simp [nextStep, takeEvent, h]

theorem seqStep_of_command {s : State} {c a : Word} (h : s.infl = .command c a) : seqStep s = completeWord c s := by
  simp [seqStep, h]

/-- A word that is no command completes with ILLEGAL and no other effect (R85, R212). -/
theorem completeWord_of_not_command {c : Word} (s : State) (h : ¬ ∃ i, decode c = .ok i) :
    completeWord c s = .next { s with err := .illegal, infl := .none } := by
  obtain ⟨e, he⟩ := (exists_decode_error_iff c).mpr h
  simp [completeWord, he, State.complete]

end Sys2Proof.Machine
end

section
/-! PROOF. The statements of the encoding: the exact word of every command (spec/30_encoding.md R83), and what a word that
is no command does (R85). -/

namespace Sys2Proof.Machine

/-- Settles O2: the word of a command is the encoder's (`decode_eq_ok_iff`), and every other word is illegal. -/
theorem exactWordsOfEveryCommand : Obligations.ExactWordsOfEveryCommand := by
  intro c
  refine ⟨decode_eq_ok_iff, decode_eq_ok_iff, decode_eq_ok_iff, decode_eq_ok_iff, decode_eq_ok_iff, decode_eq_ok_iff,
    ?gridWriteMask, decode_eq_ok_iff, decode_eq_ok_iff, decode_eq_ok_iff, decode_eq_ok_iff, decode_eq_ok_iff,
    decode_eq_ok_iff, decode_eq_ok_iff, decode_eq_ok_iff, decode_eq_ok_iff, decode_eq_ok_iff, ?carveMask,
    decode_eq_ok_iff, decode_eq_ok_iff, decode_eq_ok_iff, decode_eq_ok_iff, decode_eq_ok_iff, decode_eq_ok_iff,
    ?illegal⟩
  case gridWriteMask =>
    intro v h
    obtain rfl := decode_eq_ok_iff.mp h
    cases v <;> decide
  case carveMask =>
    intro d h
    obtain rfl := decode_eq_ok_iff.mp h
    cases d <;> decide
  case illegal => rw [exists_decode_error_iff, exists_decode_ok_iff_mem, map_encode_commands]

/-- Settles O3: the decoder accepts the legal words of R85, an issue looks at no word, and the completion of a word that is
no command goes through `completeWord_of_not_command` in both forms of the SEQ step. -/
theorem illegalWordsCompleteWithIllegal : Obligations.IllegalWordsCompleteWithIllegal := by
  refine ⟨fun c => (exists_decode_ok_iff_legalWord c).trans (legalWord_iff c),
    fun s c hready => State.writeCmd_of_ready c hready, ?_⟩
  intro s c a hlegal hinfl hc
  rw [step_of_legal hlegal]
  constructor
  · intro hnil
    rw [nextStep_of_pending_nil hnil, seqStep_of_command hinfl, completeWord_of_not_command s hc]
  · intro rest hseq
    have hinfl' : State.infl { s with pending := rest } = .command c a := hinfl
    rw [nextStep_of_pending_seq hseq, seqStep_of_command hinfl', completeWord_of_not_command _ hc]

end Sys2Proof.Machine
end

section
/-! SUPPORT. Bytes and words of the grid, and what a cell write does to them: a byte of the storage is a byte of its
word, so what is known of the words is known of the bytes (spec/10_state.md R21, spec/20_memory.md R53). -/

namespace Sys2Proof.Machine

/-! ### Bytes of words -/

/-- Byte lane `i` of a word of storage is the byte at that address (R53). -/
theorem Memory.wordByte_word (m : Memory) (d : Nat → Byte) (a : Nat) {i : Nat} (hi : i < 4) :
    wordByte (Memory.word m d a) i = Memory.byte m d (4 * a + i) := by
  have hlane : i = 0 ∨ i = 1 ∨ i = 2 ∨ i = 3 := by omega
  apply BitVec.eq_of_getLsbD_eq
  intro j hj
  simp only [wordByte, Memory.word, wordOfBytes, BitVec.getLsbD_extractLsb', BitVec.getLsbD_append]
  obtain rfl | rfl | rfl | rfl := hlane <;> grind

theorem gridByte_eq_wordByte (s : State) (k : Nat) : s.gridByte k = wordByte (s.gridWord (k / 4)) (k % 4) := by
  rw [State.gridWord, Memory.wordByte_word _ _ _ (Nat.mod_lt k (by decide)), Nat.div_add_mod, State.gridByte]

@[simp] theorem State.complete_gridByte (s : State) (e : ErrCode) (k : Nat) :
    (s.complete e).gridByte k = s.gridByte k := rfl

/-! ### A cell write, seen in its word and in the bytes -/

theorem setBit_getLsbD_self (w : Word) {i : Nat} (hi : i < 32) : setBit w i (w.getLsbD i) = w := by
  apply BitVec.eq_of_getLsbD_eq
  intro j hj
  rw [getLsbD_setBit w _ hi hj]
  split
  case isTrue hji => rw [hji]
  case isFalse => rfl

/-- The other 31 bits of the cell's word stay (R103). -/
theorem getLsbD_gridWord_gridWrite (s : State) (q : Pos) (b : Bool) {j : Nat} (hj : j < 32) :
    ((s.gridWrite q b).gridWord (cellAddr s.cfg q)).getLsbD j =
      if j = q.x % 32 then b else (s.gridWord (cellAddr s.cfg q)).getLsbD j := by
  rw [gridWord_gridWrite, if_pos rfl, getLsbD_setBit _ _ (Nat.mod_lt _ (by decide)) hj]

theorem gridByte_gridWrite_ne (s : State) (q : Pos) (b : Bool) {k : Nat}
    (h : k < 4 * cellAddr s.cfg q ∨ 4 * cellAddr s.cfg q + 4 ≤ k) : (s.gridWrite q b).gridByte k = s.gridByte k := by
  have hword : k / 4 ≠ cellAddr s.cfg q := by omega
  rw [gridByte_eq_wordByte, gridByte_eq_wordByte, gridWord_gridWrite, if_neg hword]

/-- Writing the value a cell holds leaves every word as it is. -/
theorem gridWord_gridWrite_held (s : State) {q : Pos} {b : Bool} (h : s.gridRead q = b) (a : Nat) :
    (s.gridWrite q b).gridWord a = s.gridWord a := by
  rw [gridWord_gridWrite, ← h, State.gridRead, setBit_getLsbD_self _ (Nat.mod_lt _ (by decide))]
  split
  case isTrue ha => rw [ha]
  case isFalse => rfl

theorem gridByte_gridWrite_held (s : State) {q : Pos} {b : Bool} (h : s.gridRead q = b) (k : Nat) :
    (s.gridWrite q b).gridByte k = s.gridByte k := by
  rw [gridByte_eq_wordByte, gridByte_eq_wordByte, gridWord_gridWrite_held s h]

end Sys2Proof.Machine
end

section
/-! SUPPORT. The GRID commands, one equation per outcome (spec/41_grid.md R101 to R104). -/

namespace Sys2Proof.Machine

theorem not_inGrid_iff (p : Params) (q : Pos) : ¬ inGrid p q = true ↔ p.w ≤ q.x ∨ p.h ≤ q.y := by
  rw [inGrid_iff]; omega

theorem resBit_eq (b : Bool) : resBit b = if b then 1 else 0 := by
  cases b <;> rfl

theorem exec_gridClear (s : State) : exec .gridClear s = .next s.gridClear.finish := rfl

theorem exec_gridRead_of_inGrid {s : State} (h : inGrid s.cfg s.posOperand = true) :
    exec .gridRead s = .next (s.setRes (resBit (s.gridRead s.posOperand))).finish :=
  if_pos h

theorem exec_gridRead_of_not_inGrid {s : State} (h : ¬ inGrid s.cfg s.posOperand = true) :
    exec .gridRead s = .next (s.raiseError .range) :=
  if_neg h

theorem exec_gridWrite_of_inGrid {s : State} (v : Bool) (h : inGrid s.cfg s.posOperand = true) :
    exec (.gridWrite v) s = .next (s.gridWrite s.posOperand v).finish :=
  if_pos h

theorem exec_gridWrite_of_not_inGrid {s : State} (v : Bool) (h : ¬ inGrid s.cfg s.posOperand = true) :
    exec (.gridWrite v) s = .next (s.raiseError .range) :=
  if_neg h

theorem exec_gridRdword_of_lt {s : State} (hy : s.wordOperandY < s.cfg.h) (hk : s.wordOperandK < wpr s.cfg) :
    exec .gridRdword s = .next (s.setRes (s.gridWord (s.wordOperandY * wpr s.cfg + s.wordOperandK))).finish := by
  simp only [exec, execGridRdword, hy, hk, decide_true, Bool.and_self, if_true]

theorem exec_gridRdword_of_ge {s : State} (h : s.cfg.h ≤ s.wordOperandY ∨ wpr s.cfg ≤ s.wordOperandK) :
    exec .gridRdword s = .next (s.raiseError .range) := by
  have hout : ¬ (s.wordOperandY < s.cfg.h ∧ s.wordOperandK < wpr s.cfg) := by omega
  simp only [exec, execGridRdword, Bool.and_eq_true, decide_eq_true_eq, if_neg hout]

end Sys2Proof.Machine
end

section
/-! PROOF. The statements of the GRID commands (spec/41_grid.md R101 to R104): each outcome's equation gives the next
state, and the laws of the cell write give what is read of the grid in it. -/

namespace Sys2Proof.Machine

/-- Settles O13: in range, the three views of a cell write (cells, bits of the word, bytes) are those of
`State.gridWrite`, which the completion leaves alone. -/
theorem gridWriteSetsOneCell : Obligations.GridWriteSetsOneCell := by
  refine ⟨rfl, rfl, fun s v x y a hpos ha => ⟨fun hin => ?inRange, fun hout => ?outOfRange⟩⟩
  case inRange =>
    have hpos' : s.posOperand = ⟨x, y⟩ := hpos
    have haddr : a = cellAddr s.cfg ⟨x, y⟩ := ha
    have hq : inGrid s.cfg ⟨x, y⟩ = true := (inGrid_iff _ _).mpr hin
    have hexec : exec (.gridWrite v) s = .next (s.gridWrite ⟨x, y⟩ v).finish := by
      rw [exec_gridWrite_of_inGrid v (hpos' ▸ hq), hpos']
    simp only [State.finish_eq] at hexec
    refine ⟨_, hexec, ?cells, ?bits, ?bytes, ?held, rfl⟩
    case cells =>
      intro r hx hy
      rw [State.complete_gridRead, gridRead_gridWrite s v hq ((inGrid_iff _ _).mpr ⟨hx, hy⟩)]
    case bits =>
      intro j hj
      rw [State.complete_gridWord, haddr, getLsbD_gridWord_gridWrite s _ v hj]
    case bytes =>
      intro k hk
      rw [State.complete_gridByte, gridByte_gridWrite_ne s _ v (haddr ▸ hk)]
    case held =>
      intro hv k
      rw [State.complete_gridByte, gridByte_gridWrite_held s hv]
  case outOfRange =>
    have hnot : ¬ inGrid s.cfg s.posOperand = true := by rwa [not_inGrid_iff, State.posOperand, hpos]
    rw [exec_gridWrite_of_not_inGrid v hnot, State.raiseError_eq, State.complete]

/-- Settles O11: GRID_CLEAR tests nothing, and an empty store reads as 0 everywhere. -/
theorem gridClearZeroesEveryWord : Obligations.GridClearZeroesEveryWord := by
  refine ⟨rfl, fun s => ⟨_, exec_gridClear s, fun a => ?_, rfl⟩⟩
  rw [State.finish_eq, State.complete_gridWord, gridWord_gridClear]

/-- Settles O12: the word and bit address of the statement are those of `GridRead` (R21). -/
theorem gridReadAnswersTheCell : Obligations.GridReadAnswersTheCell := by
  refine ⟨rfl, fun s x y hpos => ⟨fun hin => ?inRange, fun hout => ?outOfRange⟩⟩
  case inRange =>
    have hq : inGrid s.cfg s.posOperand = true := by rwa [inGrid_iff, State.posOperand, hpos]
    rw [exec_gridRead_of_inGrid hq, resBit_eq, State.posOperand, hpos]
    rfl
  case outOfRange =>
    have hnot : ¬ inGrid s.cfg s.posOperand = true := by rwa [not_inGrid_iff, State.posOperand, hpos]
    rw [exec_gridRead_of_not_inGrid hnot, State.raiseError_eq, State.complete]

/-- Settles O14: the two bounds of R104 choose the outcome, and the pad bits of the word are the grid invariant's. -/
theorem gridRdwordAnswersThePackedWord : Obligations.GridRdwordAnswersThePackedWord := by
  refine ⟨rfl, ?_⟩
  rintro s k y rfl rfl
  refine ⟨fun ⟨hy, hk⟩ => ?inRange, fun ⟨hy, hk⟩ hinv b hb hpad => ?padBits, fun hout => ?outOfRange⟩
  case inRange => exact exec_gridRdword_of_lt hy hk
  case padBits => exact hinv.pads _ _ b hy hk hb hpad
  case outOfRange => exact exec_gridRdword_of_ge hout

end Sys2Proof.Machine
end

section
/-! SUPPORT. The STACK commands, one equation per outcome (spec/42_stack.md R122 to R125). -/

namespace Sys2Proof.Machine

theorem exec_stkReset (s : State) : exec .stkReset s = .next s.stkReset.finish := rfl

theorem exec_stkPush_of_idx_lt {s : State} (h : s.idx < s.cfg.cap) :
    exec .stkPush s = .next (s.stkPush s.operand).finish :=
  if_pos h

theorem exec_stkPop_of_cnt_zero {s : State} (hc : s.cnt = 0) : exec .stkPop s = .next (s.raiseError .empty) := by
  simp only [exec, execStkPop, State.stkPop, if_pos hc]

theorem exec_stkPop_of_cnt_ne {s : State} (hc : s.cnt ≠ 0) (h : s.idx < s.cfg.cap) :
    exec .stkPop s = .next (s.popState.setRes s.popValue).finish := by
  simp only [exec, execStkPop, State.stkPop, if_neg hc, if_pos h]

theorem exec_stkSize (s : State) : exec .stkSize s = .next (s.setRes s.cnt).finish := rfl

/-- The storage bytes outside the pushed slot stay (R120; log entry 7). -/
theorem slotByte_stkPush_ne (s : State) (v : Word) {k : Nat} (h : k < 4 * s.idx ∨ 4 * s.idx + 4 ≤ k) :
    (s.stkPush v).slotByte k = s.slotByte k :=
  Memory.byte_setWord_ne none s.slots _ v h

@[simp] theorem State.complete_slotByte (s : State) (e : ErrCode) (k : Nat) :
    (s.complete e).slotByte k = s.slotByte k := rfl

theorem ovfAfterPush_iff (cap : Nat) (cnt : Word) (ovf : Bool) :
    ovfAfterPush cap cnt ovf = true ↔ ovf = true ∨ cap < cnt.toNat := by
  simp only [ovfAfterPush, Bool.or_eq_true, decide_eq_true_eq]

theorem ovfAfterPush_of_le {cap : Nat} {cnt : Word} (ovf : Bool) (h : cnt.toNat ≤ cap) :
    ovfAfterPush cap cnt ovf = ovf := by
  simp only [ovfAfterPush, decide_eq_false (Nat.not_lt.mpr h), Bool.or_false]

end Sys2Proof.Machine
end

section
/-! SUPPORT. What the stack is made of, and which commands leave it alone (spec/10_state.md R23 to R26, spec/42_stack.md
R127): what a list represents depends on nothing else, so a command that writes none of it keeps what is represented. -/

namespace Sys2Proof.Machine

/-- All that the meaning of the stack depends on: the slots with what an unwritten one reads as, IDX, CNT, OVF and the
build. -/
def State.stackPart (s : State) : Memory × Nat × Nat × Word × Bool × Params :=
  (s.slots, s.epoch, s.idx, s.cnt, s.ovf, s.cfg)

theorem State.stackPart_eq_iff (s t : State) : t.stackPart = s.stackPart ↔
    t.slots = s.slots ∧ t.epoch = s.epoch ∧ t.idx = s.idx ∧ t.cnt = s.cnt ∧ t.ovf = s.ovf ∧ t.cfg = s.cfg := by
  simp only [State.stackPart, Prod.mk.injEq]

theorem State.representsStack.congr {s t : State} {l : List Word} (h : s.representsStack l)
    (hst : t.stackPart = s.stackPart) : t.representsStack l := by
  obtain ⟨hslots, hepoch, hidx, hcnt, -, hcfg⟩ := (State.stackPart_eq_iff s t).mp hst
  simpa only [State.representsStack, State.liveSlot, State.slot, hslots, hepoch, hidx, hcnt, hcfg] using h

/-- A next state that the outcome answers has the stack of `s`. -/
def KeepsStack (s : State) (o : Host.Outcome State Fault Refusal) : Prop :=
  ∀ t, o = .next t → t.stackPart = s.stackPart

theorem keepsStack_next {s t : State} (h : t.stackPart = s.stackPart) : KeepsStack s (.next t) := by
  rintro u ⟨⟩
  exact h

theorem keepsStack_ite {s : State} {p : Prop} [Decidable p] {o o' : Host.Outcome State Fault Refusal}
    (h : KeepsStack s o) (h' : KeepsStack s o') : KeepsStack s (if p then o else o') := by
  split
  · exact h
  · exact h'

theorem keepsStack_raiseError (s : State) (e : ErrCode) : KeepsStack s (.next (s.raiseError e)) := keepsStack_next rfl

/-- Every command but STK_RESET, STK_PUSH, STK_POP and the generations leaves the stack alone (R82, R127). -/
theorem exec_keepsStack {i : Instr} (s : State) (hi : i ∉ [Instr.stkReset, .stkPush, .stkPop, .genRun, .genCenter]) :
    KeepsStack s (exec i s) := by
  cases i with
  | stkReset | stkPush | stkPop | genRun | genCenter => exact absurd (by decide) hi
  | nop | gridClear | stkSize | prngNext | prngTick | prngSeed | genAck => exact keepsStack_next rfl
  | gridRead | gridWrite | gridRdword | nbr => exact keepsStack_ite (keepsStack_next rfl) (keepsStack_raiseError s _)
  | pick =>
    exact keepsStack_ite (keepsStack_ite (keepsStack_raiseError s _) (keepsStack_next rfl)) (keepsStack_raiseError s _)
  | carve =>
    exact keepsStack_ite (keepsStack_ite (keepsStack_next rfl) (keepsStack_raiseError s _)) (keepsStack_raiseError s _)

/-- No host access reaches the stack (R63). -/
theorem hostAccess_stackPart (s : State) (a : Access) : (s.hostAccess a).stackPart = s.stackPart := by
  rw [hostAccess_touches]
  rfl

end Sys2Proof.Machine
end

section
/-! SUPPORT. The ring of CAP slots: which slot the pops to come read, after a push and after a pop, and with it the
unbounded stack that the circular one represents (spec/42_stack.md R120, R121, R127). -/

namespace Sys2Proof.Machine

/-! ### The live slots -/

/-- `i + 1` places back from `c` around a ring of `n`; `ring_pred` is the single place back. -/
theorem ring_back {c n i : Nat} (hn : i < n) (hc : i < c) : (c % n + n - 1 - i) % n = (c - 1 - i) % n := by
  have hassoc : c % n + n - 1 - i = c % n + (n - 1 - i) := by omega
  have hwrap : c + (n - 1 - i) = c - 1 - i + n := by omega
  rw [hassoc, Nat.mod_add_mod, hwrap, Nat.add_mod_right]

theorem liveSlot_of_idx {s : State} {c i : Nat} (hidx : s.idx = c % s.cfg.cap) (hi : i < s.cfg.cap) (hc : i < c) :
    s.liveSlot i = (c - 1 - i) % s.cfg.cap := by
  rw [State.liveSlot, hidx, ring_back hi hc]

theorem popIdx_eq_liveSlot_zero (s : State) : s.popIdx = s.liveSlot 0 := rfl

theorem liveSlot_stkPush_zero {s : State} (v : Word) (h : s.idx < s.cfg.cap) : (s.stkPush v).liveSlot 0 = s.idx := by
  rw [liveSlot_of_idx (s := s.stkPush v) (c := s.idx + 1) rfl (Nat.zero_lt_of_lt h) (by omega)]
  exact Nat.mod_eq_of_lt h

theorem liveSlot_stkPush_succ (s : State) (v : Word) {i : Nat} (hi : i + 1 < s.cfg.cap) :
    (s.stkPush v).liveSlot (i + 1) = s.liveSlot i := by
  have hidx : (s.stkPush v).idx = (s.idx + 1 + s.cfg.cap) % s.cfg.cap := (Nat.add_mod_right _ _).symm
  have hback : s.idx + 1 + s.cfg.cap - 1 - (i + 1) = s.idx + s.cfg.cap - 1 - i := by omega
  rw [liveSlot_of_idx (s := s.stkPush v) hidx hi (by omega), State.stkPush_cfg, hback, State.liveSlot]

theorem liveSlot_popState (s : State) {i : Nat} (hi : i + 1 < s.cfg.cap) :
    s.popState.liveSlot i = s.liveSlot (i + 1) := by
  have hback : s.idx + s.cfg.cap - 1 - 1 - i = s.idx + s.cfg.cap - 1 - (i + 1) := by omega
  rw [liveSlot_of_idx (s := s.popState) (c := s.idx + s.cfg.cap - 1) rfl (Nat.lt_of_succ_lt hi) (by omega),
    State.popState_cfg, hback, State.liveSlot]

/-- The next push overwrites none of the CAP - 1 slots behind IDX. -/
theorem liveSlot_ne_idx {s : State} {i : Nat} (h : s.idx < s.cfg.cap) (hi : i + 1 < s.cfg.cap) :
    s.liveSlot i ≠ s.idx := by
  rw [State.liveSlot]
  by_cases hwrap : s.cfg.cap ≤ s.idx + s.cfg.cap - 1 - i
  · rw [Nat.mod_eq_sub_mod hwrap, Nat.mod_eq_of_lt (by omega)]
    omega
  · rw [Nat.mod_eq_of_lt (by omega)]
    omega

/-! ### The represented list -/

theorem cap_bounds_of_legal {p : Params} (h : p.legal = true) : 0 < p.cap ∧ p.cap < 2 ^ 32 := by
  obtain ⟨-, -, ⟨hpos, hle⟩, -⟩ := (Params.legal_iff p).mp h
  omega

theorem representsStack_stkReset {s : State} (hp : s.cfg.legal = true) : s.stkReset.representsStack [] :=
  ⟨(cap_bounds_of_legal hp).1, Nat.zero_le _, rfl, fun _ _ h => nomatch h⟩

theorem State.representsStack.idx_lt {s : State} {l : List Word} (h : s.representsStack l) : s.idx < s.cfg.cap := by
  obtain ⟨hidx, -⟩ := h
  exact hidx

theorem State.representsStack.toNat_cnt_succ {s : State} {l : List Word} (h : s.representsStack l)
    (hp : s.cfg.legal = true) (hlt : l.length < s.cfg.cap) : (s.cnt + 1).toNat = l.length + 1 := by
  obtain ⟨-, -, hcnt, -⟩ := h
  have hcap := (cap_bounds_of_legal hp).2
  rw [toNat_succ_of_lt (by omega), hcnt]

theorem State.representsStack.cnt_eq_zero {s : State} (h : s.representsStack []) : s.cnt = 0 := by
  obtain ⟨-, -, hcnt, -⟩ := h
  exact BitVec.eq_of_toNat_eq hcnt

theorem State.representsStack.cnt_ne_zero {s : State} {v : Word} {l : List Word} (h : s.representsStack (v :: l)) :
    s.cnt ≠ 0 := by
  obtain ⟨-, -, hcnt, -⟩ := h
  intro hzero
  simp [hzero] at hcnt

/-- A push with room is the push of the unbounded stack: the new slot is the one the next pop reads, and every live slot
moves one pop further away (R127). -/
theorem State.representsStack.stkPush {s : State} {l : List Word} (h : s.representsStack l) (hp : s.cfg.legal = true)
    (hlt : l.length < s.cfg.cap) (v : Word) : (s.stkPush v).representsStack (v :: l) := by
  have hcnt := h.toNat_cnt_succ hp hlt
  obtain ⟨hidx, -, -, hslots⟩ := h
  refine ⟨Nat.mod_lt _ (Nat.zero_lt_of_lt hidx), hlt, hcnt, fun i w hw => ?_⟩
  cases i with
  | zero =>
    obtain rfl : v = w := by simpa using hw
    rw [liveSlot_stkPush_zero v hidx, slot_stkPush_same]
  | succ i =>
    have hget : l[i]? = some w := by simpa using hw
    have hi : i + 1 < s.cfg.cap := by
      obtain ⟨hlen, -⟩ := List.getElem?_eq_some_iff.mp hget
      omega
    rw [liveSlot_stkPush_succ s v hi, slot_stkPush_ne s v (liveSlot_ne_idx hidx hi), hslots i w hget]

theorem State.representsStack.popValue {s : State} {v : Word} {l : List Word} (h : s.representsStack (v :: l)) :
    s.popValue = v := by
  obtain ⟨-, -, -, hslots⟩ := h
  rw [State.popValue, popIdx_eq_liveSlot_zero]
  exact hslots 0 v rfl

/-- A pop is the pop of the unbounded stack (R127). -/
theorem State.representsStack.popState {s : State} {v : Word} {l : List Word} (h : s.representsStack (v :: l)) :
    s.popState.representsStack l := by
  have hne := h.cnt_ne_zero
  obtain ⟨hidx, hle, hcnt, hslots⟩ := h
  rw [List.length_cons] at hle hcnt
  refine ⟨Nat.mod_lt _ (Nat.zero_lt_of_lt hidx), Nat.le_of_succ_le hle, ?_, fun i w hget => ?_⟩
  · rw [State.popState_cnt, toNat_pred_of_ne hne, hcnt, Nat.add_sub_cancel]
  · have hi : i + 1 < s.cfg.cap := by
      obtain ⟨hlen, -⟩ := List.getElem?_eq_some_iff.mp hget
      omega
    rw [liveSlot_popState s hi, State.popState_slot]
    exact hslots (i + 1) w hget

end Sys2Proof.Machine
end

section
/-! SUPPORT. The stack after more pushes than it has slots (spec/42_stack.md R126): the ring holds the last CAP of the
pushes, and the pops go round it. -/

namespace Sys2Proof.Machine

/-! ### Pushes in a row -/

/-- The stack after the pushes of `vs`, the first one first, on an empty stack: slot `q mod CAP` holds push number `q`
(from 0) as long as it is one of the last CAP. -/
structure HoldsPushes (t : State) (vs : List Word) : Prop where
  ring : t.idx = vs.length % t.cfg.cap
  count : t.cnt.toNat = vs.length
  overflow : t.ovf = true ↔ t.cfg.cap < vs.length
  recent : ∀ q v, vs[q]? = some v → vs.length ≤ q + t.cfg.cap → t.slot (q % t.cfg.cap) = v

theorem holdsPushes_stkReset (s : State) : HoldsPushes s.stkReset [] where
  ring := (Nat.zero_mod _).symm
  count := rfl
  overflow := by simp
  recent := fun _ _ h => nomatch h

/-- Two of CAP consecutive pushes never share a slot. -/
theorem mod_ne_mod_of_lt {q c n : Nat} (hqc : q < c) (hcq : c < q + n) : q % n ≠ c % n := by
  intro heq
  have hdvd : n ∣ c - q := (Nat.modEq_iff_dvd' hqc.le).mp heq
  have hle := Nat.le_of_dvd (by omega) hdvd
  omega

theorem HoldsPushes.stkPush {t : State} {vs : List Word} (h : HoldsPushes t vs) (hlt : vs.length + 1 < 2 ^ 32)
    (v : Word) : HoldsPushes (t.stkPush v) (vs ++ [v]) := by
  have hlen : (vs ++ [v]).length = vs.length + 1 := List.length_append
  have hcnt : (t.cnt + 1).toNat = vs.length + 1 := by
    rw [toNat_succ_of_lt (h.count ▸ hlt), h.count]
  refine ⟨?ring, ?count, ?overflow, ?recent⟩
  case ring => rw [State.stkPush_idx, h.ring, State.stkPush_cfg, Nat.mod_add_mod, hlen]
  case count => rw [State.stkPush_cnt, hcnt, hlen]
  case overflow =>
    rw [State.stkPush_ovf, ovfAfterPush_iff, h.overflow, hcnt, State.stkPush_cfg, hlen]
    omega
  case recent =>
    intro q w hw hq
    rw [State.stkPush_cfg] at hq ⊢
    rw [hlen] at hq
    by_cases hlast : q = vs.length
    · obtain rfl : v = w := by simpa [hlast] using hw
      rw [hlast, ← h.ring, slot_stkPush_same]
    · have hqlt : q < vs.length := by
        obtain ⟨hqlen, -⟩ := List.getElem?_eq_some_iff.mp hw
        omega
      have hget : vs[q]? = some w := by rwa [List.getElem?_append_left hqlt] at hw
      have hne : q % t.cfg.cap ≠ t.idx := h.ring ▸ mod_ne_mod_of_lt hqlt (by omega)
      rw [slot_stkPush_ne t v hne, h.recent q w hget (by omega)]

theorem holdsPushes_foldl (s : State) (vs : List Word) (hlt : vs.length < 2 ^ 32) :
    HoldsPushes (vs.foldl State.stkPush s.stkReset) vs := by
  induction vs using List.reverseRecOn with
  | nil => exact holdsPushes_stkReset s
  | append_singleton vs v ih =>
    rw [List.length_append, List.length_singleton] at hlt
    rw [List.foldl_append]
    exact (ih (by omega)).stkPush hlt v

theorem foldl_stkPush_cfg (vs : List Word) (s : State) : (vs.foldl State.stkPush s).cfg = s.cfg := by
  induction vs generalizing s with
  | nil => rfl
  | cons v vs ih => exact ih (s.stkPush v)

/-! ### Pops in a row -/

theorem popState_iterate_cfg (s : State) (n : Nat) : (State.popState^[n] s).cfg = s.cfg := by
  induction n with
  | zero => rfl
  | succ n ih => rw [Function.iterate_succ_apply', State.popState_cfg, ih]

theorem popState_iterate_slot (s : State) (n i : Nat) : (State.popState^[n] s).slot i = s.slot i := by
  induction n with
  | zero => rfl
  | succ n ih => rw [Function.iterate_succ_apply', State.popState_slot, ih]

/-- IDX goes back one place a pop (R121). -/
theorem popState_iterate_idx {s : State} {c : Nat} (hcap : 0 < s.cfg.cap) (hidx : s.idx = c % s.cfg.cap) {n : Nat}
    (hn : n ≤ c) : (State.popState^[n] s).idx = (c - n) % s.cfg.cap := by
  induction n with
  | zero => exact hidx
  | succ n ih =>
    rw [Function.iterate_succ_apply', State.popState_idx, State.popIdx, ih (by omega), popState_iterate_cfg,
      ring_pred (by omega) hcap, Nat.sub_sub]

/-- What the pop after `n` pops answers (R121, R126). -/
theorem popValue_iterate {s : State} {c : Nat} (hcap : 0 < s.cfg.cap) (hidx : s.idx = c % s.cfg.cap) {n : Nat}
    (hn : n < c) : (State.popState^[n] s).popValue = s.slot ((c - 1 - n) % s.cfg.cap) := by
  rw [State.popValue, State.popIdx, popState_iterate_idx hcap hidx hn.le, popState_iterate_cfg,
    ring_pred (by omega) hcap, popState_iterate_slot, Nat.sub_right_comm]

/-- R126: the pop after `n` pops answers the push that stands `n mod CAP` places before the last. -/
theorem HoldsPushes.popValue_iterate {t : State} {vs : List Word} (h : HoldsPushes t vs) (hcap : 0 < t.cfg.cap)
    {n : Nat} (hn : n < vs.length) : vs[vs.length - n % t.cfg.cap - 1]? = some (State.popState^[n] t).popValue := by
  have hmod : n % t.cfg.cap < t.cfg.cap := Nat.mod_lt n hcap
  have hmodle : n % t.cfg.cap ≤ n := Nat.mod_le n _
  have hget := List.getElem?_eq_getElem (l := vs) (i := vs.length - n % t.cfg.cap - 1) (by omega)
  have hsame : (vs.length - n % t.cfg.cap - 1) % t.cfg.cap = (vs.length - 1 - n) % t.cfg.cap := by
    have hsplit : vs.length - n % t.cfg.cap - 1 = vs.length - 1 - n + t.cfg.cap * (n / t.cfg.cap) := by
      have := Nat.mod_add_div n t.cfg.cap
      omega
    rw [hsplit, Nat.add_mul_mod_self_left]
  rw [Machine.popValue_iterate hcap h.ring hn, ← hsame, h.recent _ _ hget (by omega), hget]

end Sys2Proof.Machine
end

section
/-! PROOF. The statements of the stack (spec/42_stack.md R120 to R127). -/

namespace Sys2Proof.Machine

/-- Settles O21: what is represented depends on the stack alone, a push and a pop act on it as on the unbounded stack,
and nothing else in the list of steps writes it. -/
theorem stackIsLifoWithoutOverflow : Obligations.StackIsLifoWithoutOverflow := by
  refine ⟨?reset, ?push, ?pop, ?popEmpty, ?others, ?errors, ?host⟩
  case reset =>
    rintro s t hp ⟨⟩
    exact (representsStack_stkReset hp).congr rfl
  case push =>
    intro s l h hp hlt
    refine ⟨_, exec_stkPush_of_idx_lt h.idx_lt, (h.stkPush hp hlt s.operand).congr rfl, ?_⟩
    exact ovfAfterPush_of_le s.ovf ((h.toNat_cnt_succ hp hlt).trans_le hlt)
  case pop =>
    intro s v l h hp
    exact ⟨_, exec_stkPop_of_cnt_ne h.cnt_ne_zero h.idx_lt, h.popValue, rfl, h.popState.congr rfl⟩
  case popEmpty =>
    intro s h
    exact ⟨_, exec_stkPop_of_cnt_zero h.cnt_eq_zero, rfl, h.congr rfl⟩
  case others =>
    intro i s t l hi hexec h
    exact h.congr (exec_keepsStack s hi t hexec)
  case errors =>
    intro s e l h
    exact h.congr rfl
  case host =>
    intro s a l h
    exact h.congr (hostAccess_stackPart s a)

/-- Settles O20: the pushes leave the last CAP of their words in the ring, and each pop reads one place further back. -/
theorem popsAfterOverflowAlias : Obligations.PopsAfterOverflowAlias := by
  refine ⟨fun u hidx => ⟨exec_stkPush_of_idx_lt hidx, fun hne => ⟨exec_stkPop_of_cnt_ne hne hidx, rfl⟩⟩, ?_⟩
  intro s vs i hp hlen hi hile t
  have hcfg : t.cfg = s.cfg := foldl_stkPush_cfg vs s.stkReset
  have hinv : HoldsPushes t vs := holdsPushes_foldl s vs hlen
  have hcap : 0 < t.cfg.cap := hcfg ▸ (cap_bounds_of_legal hp).1
  rw [← hcfg]
  exact ⟨hinv.overflow, hinv.popValue_iterate hcap (by omega)⟩

/-- Settles O16: the completion leaves what the push wrote, and the laws of the slots say what is read of it. -/
theorem stkPushWritesTheSlotAtIdx : Obligations.StkPushWritesTheSlotAtIdx := by
  refine ⟨rfl, fun s hidx => ?_⟩
  have hexec := exec_stkPush_of_idx_lt hidx
  rw [State.finish_eq] at hexec
  refine ⟨_, hexec, ?same, ?others, ?bytes, rfl, ?count, ?overflow, rfl⟩
  case same => rw [State.complete_slot, slot_stkPush_same]
  case others =>
    intro i hi
    rw [State.complete_slot, slot_stkPush_ne s _ hi]
  case bytes =>
    intro k hk
    rw [State.complete_slotByte, slotByte_stkPush_ne s _ hk]
  case count => exact BitVec.toNat_add s.cnt 1
  case overflow => exact ovfAfterPush_iff s.cfg.cap (s.cnt + 1) s.ovf

/-- Settles O17: CNT chooses the outcome, and where it is not 0 the decrement does not wrap. -/
theorem stkPopAnswersTheSlotBehindIdx : Obligations.StkPopAnswersTheSlotBehindIdx := by
  refine ⟨rfl, fun s => ⟨exec_stkPop_of_cnt_zero, fun hne hidx => ?_⟩⟩
  have hcnt : BitVec.ofNat 32 (s.cnt.toNat - 1) = s.cnt - 1 := by
    rw [← toNat_pred_of_ne hne, BitVec.ofNat_toNat, BitVec.setWidth_eq]
  rw [exec_stkPop_of_cnt_ne hne hidx, hcnt]
  rfl

/-- Settles O18: STK_SIZE copies CNT to RES, and STKCNT reads the same element while BUSY = 0. -/
theorem stkSizeAnswersTheCount : Obligations.StkSizeAnswersTheCount := by
  refine ⟨rfl, fun s => ⟨exec_stkSize s, fun hready => ?_⟩⟩
  have hread : s.response (.read 0x18) = .readOk (s.readValue .stkcnt) := rfl
  rw [hread, State.readValue, State.busy_eq_false hready, if_neg Bool.false_ne_true]

end Sys2Proof.Machine
end

section
/-! SUPPORT. The PRNG draw in natural numbers (spec/44_prng.md R160, R161). -/

namespace Sys2Proof.Machine

theorem toNat_lcg (w : Word) : (lcg w).toNat = (1103515245 * w.toNat + 12345) % 2 ^ 32 := by
  simp [lcg, BitVec.toNat_add, BitVec.toNat_mul]

theorem toNat_prngClamp (w : Word) : (prngClamp w).toNat = min w.toNat 0xFFFFFFFB := by
  unfold prngClamp
  split
  case isTrue hle => exact (Nat.min_eq_left hle).symm
  case isFalse hgt => exact (Nat.min_eq_right (Nat.le_of_not_le hgt)).symm

theorem toNat_drawValue (s : State) :
    s.drawValue.toNat = min ((1103515245 * s.seed.toNat + 12345) % 2 ^ 32) 0xFFFFFFFB := by
  rw [State.drawValue, toNat_prngClamp, toNat_lcg]

/-- The seed a draw leaves: the raw value, or the clamped one where CLAMP_WB = 1 (R161). -/
theorem drawState_seed (s : State) :
    s.drawState.seed = BitVec.ofNat 32 (if s.cfg.clampWb then
      min ((1103515245 * s.seed.toNat + 12345) % 2 ^ 32) 0xFFFFFFFB
      else (1103515245 * s.seed.toNat + 12345) % 2 ^ 32) := by
  rw [← toNat_lcg, ← toNat_prngClamp, State.drawState, ← apply_ite BitVec.toNat, BitVec.ofNat_toNat,
    BitVec.setWidth_eq]

end Sys2Proof.Machine
end

section
/-! SUPPORT. The neighbor rule and the choice, read bit by bit, and the result words of NBR and PICK as numbers
(spec/43_neighbor_carve.md R140, R141; spec/30_encoding.md R88). -/

namespace Sys2Proof.Machine

/-! ### The mask -/

/-- The mask bit a direction's code numbers is that direction's probe (R14, R140). -/
theorem getLsbD_nbrMask_iff (s : State) (q : Pos) (d : Dir) :
    (s.nbrMask q).getLsbD (dirCode d).toNat = true ↔ s.probeOpen q d = true :=
  Bool.eq_iff_iff.mp (maskHas_nbrMask s q d)

theorem probeOpen_north_iff (s : State) (q : Pos) :
    s.probeOpen q .north = true ↔ s.cfg.nearMargin ≤ q.y ∧ s.gridRead ⟨q.x, q.y - 2⟩ = false := by
  simp [State.probeOpen]

theorem probeOpen_east_iff (s : State) (q : Pos) :
    s.probeOpen q .east = true ↔ q.x + s.cfg.farMargin ≤ s.cfg.w ∧ s.gridRead ⟨q.x + 2, q.y⟩ = false := by
  simp [State.probeOpen]

theorem probeOpen_south_iff (s : State) (q : Pos) :
    s.probeOpen q .south = true ↔ q.y + s.cfg.farMargin ≤ s.cfg.h ∧ s.gridRead ⟨q.x, q.y + 2⟩ = false := by
  simp [State.probeOpen]

theorem probeOpen_west_iff (s : State) (q : Pos) :
    s.probeOpen q .west = true ↔ s.cfg.nearMargin ≤ q.x ∧ s.gridRead ⟨q.x - 2, q.y⟩ = false := by
  simp [State.probeOpen]

theorem maskCount_eq_zero_iff (m : BitVec 4) : maskCount m = 0 ↔ m = 0 := by
  revert m; decide

/-- The count is the population of the mask: how many of its bit numbers are set. -/
theorem maskCount_eq_length_filter (m : BitVec 4) :
    maskCount m = ((List.range 4).filter (fun b => m.getLsbD b)).length := by
  revert m; decide

/-! ### The choice -/

/-- The index of a choice is inside the list of the open directions, so `chooseDir` names an entry of it (R141). -/
theorem getElem?_openDirs_chooseIdx {m : BitVec 4} (h : maskCount m ≠ 0) (r : Word) :
    (openDirs m)[chooseIdx (maskCount m) r]? = some (chooseDir m (maskCount m) r) := by
  have hlt : chooseIdx (maskCount m) r < (openDirs m).length := (openDirs_length m).symm ▸ chooseIdx_lt h r
  rw [chooseDir, List.getD_eq_getElem?_getD, List.getElem?_eq_getElem hlt, Option.getD_some]

/-! ### The result words -/

/-- Concatenation of fields as arithmetic: the upper field counts in units of the lower one's range. -/
theorem toNat_append_eq_add {m n : Nat} (x : BitVec m) (y : BitVec n) :
    (x ++ y).toNat = x.toNat * 2 ^ n + y.toNat := by
  rw [BitVec.toNat_append, ← Nat.shiftLeft_add_eq_or_of_lt y.isLt, Nat.shiftLeft_eq]

theorem resNbr_eq_ofNat (m : BitVec 4) {cnt : Nat} (h : cnt < 8) :
    resNbr m cnt = BitVec.ofNat 32 (cnt * 256 + m.toNat) := by
  apply BitVec.eq_of_toNat_eq
  simp only [resNbr, toNat_append_eq_add, BitVec.toNat_ofNat]
  omega

theorem resPick_eq_ofNat (d : Dir) {cnt idx : Nat} (hcnt : cnt < 8) (hidx : idx < 4) :
    resPick cnt idx d = BitVec.ofNat 32 (cnt * 256 + idx * 16 + (dirCode d).toNat) := by
  apply BitVec.eq_of_toNat_eq
  simp only [resPick, toNat_append_eq_add, BitVec.toNat_ofNat]
  omega

end Sys2Proof.Machine
end

section
/-! SUPPORT. The neighbor and carve commands, one equation per outcome (spec/43_neighbor_carve.md R143 to R145). -/

namespace Sys2Proof.Machine

theorem exec_nbr_of_inGrid {s : State} (h : inGrid s.cfg s.posOperand = true) :
    exec .nbr s = .next (s.setRes (resNbr (s.nbrMask s.posOperand) (maskCount (s.nbrMask s.posOperand)))).finish :=
  if_pos h

theorem exec_nbr_of_not_inGrid {s : State} (h : ¬ inGrid s.cfg s.posOperand = true) :
    exec .nbr s = .next (s.raiseError .range) :=
  if_neg h

theorem exec_pick_of_not_inGrid {s : State} (h : ¬ inGrid s.cfg s.posOperand = true) :
    exec .pick s = .next (s.raiseError .range) :=
  if_neg h

theorem exec_pick_of_mask_zero {s : State} (h : inGrid s.cfg s.posOperand = true) (hm : s.nbrMask s.posOperand = 0) :
    exec .pick s = .next (s.raiseError .nodir) :=
  (if_pos h).trans (if_pos ((maskCount_eq_zero_iff _).mpr hm))

/-- PICK draws as an iteration of the generator does, and reports the direction that iteration takes (R141, R183). -/
theorem exec_pick_of_mask_ne {s : State} (h : inGrid s.cfg s.posOperand = true)
    (hm : maskCount (s.nbrMask s.posOperand) ≠ 0) :
    exec .pick s = .next (s.drawState.setRes (resPick (maskCount (s.nbrMask s.posOperand))
      (chooseIdx (maskCount (s.nbrMask s.posOperand)) s.drawValue)
      (s.extendDir (s.nbrMask s.posOperand)))).finish :=
  (if_pos h).trans (if_neg hm)

theorem exec_carve_of_inGridAlong {s : State} {d : Dir} (h : inGrid s.cfg s.posOperand = true)
    (h2 : inGridAlong s.cfg s.posOperand d 2 = true) :
    exec (.carve d) s =
      .next ((s.carveStep s.posOperand d).setRes (packPos (stepPos s.posOperand d 2))).finish :=
  (if_pos h).trans (if_pos h2)

theorem exec_carve_of_outside {s : State} {d : Dir}
    (h : ¬ inGrid s.cfg s.posOperand = true ∨ ¬ inGridAlong s.cfg s.posOperand d 2 = true) :
    exec (.carve d) s = .next (s.raiseError .range) := by
  simp only [exec, execCarve]
  split
  case isTrue hin => exact if_neg (h.resolve_left (not_not_intro hin))
  case isFalse => rfl

end Sys2Proof.Machine
end

section
/-! SUPPORT. The cells of a carve step, on integers (spec/10_state.md R11, R13; spec/43_neighbor_carve.md R145). -/

namespace Sys2Proof.Machine

theorem inGridAlong_iff (p : Params) (q : Pos) (d : Dir) (n : Nat) : inGridAlong p q d n = true ↔
    0 ≤ alongX q d n ∧ 0 ≤ alongY q d n ∧ alongX q d n < p.w ∧ alongY q d n < p.h := by
  simp only [inGridAlong, inGrid_iff, stepPos, Bool.and_eq_true, decide_eq_true_eq]
  omega

theorem inGrid_stepPos {p : Params} {q : Pos} {d : Dir} {n : Nat} (h : inGridAlong p q d n = true) :
    inGrid p (stepPos q d n) = true := by
  rw [inGridAlong, Bool.and_eq_true] at h
  exact h.2

/-- The grid is convex along a row or a column: between two cells of it lies a cell of it. -/
theorem inGridAlong_one_of_two {p : Params} {q : Pos} {d : Dir} (hq : inGrid p q = true)
    (h : inGridAlong p q d 2 = true) : inGridAlong p q d 1 = true := by
  rw [inGridAlong_iff] at h ⊢
  rw [inGrid_iff] at hq
  have hx : 2 * alongX q d 1 = q.x + alongX q d 2 := by simp only [alongX]; push_cast; ring
  have hy : 2 * alongY q d 1 = q.y + alongY q d 2 := by simp only [alongY]; push_cast; ring
  omega

/-- Where no coordinate is negative, the integer coordinates name the cell `stepPos` gives (R11). -/
theorem eq_stepPos_iff {p : Params} {q r : Pos} {d : Dir} {n : Nat} (h : inGridAlong p q d n = true) :
    r = stepPos q d n ↔ r.x = alongX q d n ∧ r.y = alongY q d n := by
  rw [inGridAlong_iff] at h
  obtain ⟨x, y⟩ := r
  simp only [stepPos, Pos.mk.injEq]
  omega

theorem packPos_eq_ofNat {q : Pos} (hx : q.x < 65536) :
    packPos q = BitVec.ofNat 32 (q.y * 65536 + q.x) := by
  apply BitVec.eq_of_toNat_eq
  simp only [packPos, toNat_append_eq_add, BitVec.toNat_ofNat]
  omega

/-- A Position `n` cells away, packed, in a legal build (R13). -/
theorem packPos_stepPos {p : Params} {q : Pos} {d : Dir} {n : Nat} (hp : p.legal = true)
    (h : inGridAlong p q d n = true) :
    packPos (stepPos q d n) = BitVec.ofInt 32 (alongY q d n * 65536 + alongX q d n) := by
  obtain ⟨hx, hy⟩ := (eq_stepPos_iff h).mp rfl
  have hin := (inGrid_iff _ _).mp (inGrid_stepPos h)
  rw [Params.legal_iff] at hp
  rw [packPos_eq_ofNat (by omega), ← hx, ← hy, ← BitVec.ofInt_natCast]
  push_cast
  rfl

theorem gridByte_carveStep_ne (s : State) (q : Pos) (d : Dir) {k : Nat}
    (h1 : k < 4 * cellAddr s.cfg (stepPos q d 1) ∨ 4 * cellAddr s.cfg (stepPos q d 1) + 4 ≤ k)
    (h2 : k < 4 * cellAddr s.cfg (stepPos q d 2) ∨ 4 * cellAddr s.cfg (stepPos q d 2) + 4 ≤ k) :
    (s.carveStep q d).gridByte k = s.gridByte k := by
  rw [State.carveStep, gridByte_gridWrite_ne (s.gridWrite _ true) _ _ h2, gridByte_gridWrite_ne s _ _ h1]

end Sys2Proof.Machine
end

section
/-! PROOF. The statements of the neighbor and carve commands (spec/43_neighbor_carve.md R140 to R146). -/

namespace Sys2Proof.Machine

/-- Settles O22: each bit of the mask is its direction's probe, and the result word's fields do not overlap. -/
theorem nbrAnswersMaskAndCount : Obligations.NbrAnswersMaskAndCount := by
  refine ⟨rfl, fun s x y hpos => ⟨fun hin => ?inRange, fun hout => ?outOfRange⟩⟩
  case inRange =>
    have hpos' : s.posOperand = ⟨x, y⟩ := hpos
    have hq : inGrid s.cfg s.posOperand = true := by rwa [hpos', inGrid_iff]
    refine ⟨s.nbrMask ⟨x, y⟩, ?north, ?east, ?south, ?west, ?result⟩
    case north => exact (getLsbD_nbrMask_iff s _ .north).trans (probeOpen_north_iff s _)
    case east => exact (getLsbD_nbrMask_iff s _ .east).trans (probeOpen_east_iff s _)
    case south => exact (getLsbD_nbrMask_iff s _ .south).trans (probeOpen_south_iff s _)
    case west => exact (getLsbD_nbrMask_iff s _ .west).trans (probeOpen_west_iff s _)
    case result =>
      rw [exec_nbr_of_inGrid hq, hpos', resNbr_eq_ofNat _ ((maskCount_le _).trans_lt (by decide)),
        maskCount_eq_length_filter]
      rfl
  case outOfRange =>
    have hnot : ¬ inGrid s.cfg s.posOperand = true := by rwa [not_inGrid_iff, State.posOperand, hpos]
    rw [exec_nbr_of_not_inGrid hnot, State.raiseError_eq, State.complete]

/-- Settles O23: the tests of R144 in their order, then one draw whose value and seed are R161's. -/
theorem pickDrawsOneOpenDirection : Obligations.PickDrawsOneOpenDirection := by
  refine ⟨rfl, ?_⟩
  rintro s q rfl
  refine ⟨fun hout => ?outOfRange, fun hin hzero => ?noDirection, fun hin hne => ?chosen⟩
  case outOfRange => exact exec_pick_of_not_inGrid ((not_inGrid_iff _ _).mpr hout)
  case noDirection => exact exec_pick_of_mask_zero ((inGrid_iff _ _).mpr hin) hzero
  case chosen =>
    have hcnt : maskCount (s.nbrMask s.posOperand) ≠ 0 := (maskCount_eq_zero_iff _).not.mpr hne
    have hexec := exec_pick_of_mask_ne ((inGrid_iff _ _).mpr hin) hcnt
    intro l raw r idx
    have hlen : l.length = maskCount (s.nbrMask s.posOperand) := openDirs_length _
    have hidx : idx = chooseIdx (maskCount (s.nbrMask s.posOperand)) s.drawValue := by
      rw [chooseIdx, toNat_drawValue, ← hlen]
      rfl
    have hcnt4 := maskCount_le (s.nbrMask s.posOperand)
    have hidx4 := (chooseIdx_lt hcnt s.drawValue).trans_le hcnt4
    refine ⟨s.extendDir (s.nbrMask s.posOperand), ?entry, ?result⟩
    case entry => rw [hidx]; exact getElem?_openDirs_chooseIdx hcnt s.drawValue
    case result =>
      rw [hexec, resPick_eq_ofNat _ (by omega) hidx4, ← hidx, ← hlen, State.finish_eq, State.complete,
        State.setRes_seed, drawState_seed]
      rfl

/-- Settles O24: both cells of a carve step lie in the grid, the laws of the cell write say what is read of it after,
and in a legal build the destination packs without loss. -/
theorem carveCarvesTwoCells : Obligations.CarveCarvesTwoCells := by
  refine ⟨rfl, rfl, rfl, rfl, ?_⟩
  intro s d x y x1 y1 x2 y2 hpos hx1 hy1 hx2 hy2
  have hpos' : s.posOperand = ⟨x, y⟩ := hpos
  replace hx1 : x1 = alongX ⟨x, y⟩ d 1 := by rw [hx1, alongX, Nat.cast_one, one_mul]
  replace hy1 : y1 = alongY ⟨x, y⟩ d 1 := by rw [hy1, alongY, Nat.cast_one, one_mul]
  replace hx2 : x2 = alongX ⟨x, y⟩ d 2 := hx2
  replace hy2 : y2 = alongY ⟨x, y⟩ d 2 := hy2
  subst hx1 hy1 hx2 hy2
  rw [← inGridAlong_iff]
  refine ⟨fun hp hin hdest => ?inRange, fun hout => ?outOfRange⟩
  case inRange =>
    have hq : inGrid s.cfg ⟨x, y⟩ = true := (inGrid_iff _ _).mpr hin
    have hmid : inGridAlong s.cfg ⟨x, y⟩ d 1 = true := inGridAlong_one_of_two hq hdest
    have hexec := exec_carve_of_inGridAlong (hpos' ▸ hq) (hpos' ▸ hdest)
    rw [hpos', State.finish_eq] at hexec
    obtain ⟨hx, hy, hw, hh⟩ := (inGridAlong_iff _ _ _ _).mp hmid
    refine ⟨hx, hy, hw, hh, _, hexec, ?cells, ?bytes, ?frame⟩
    case cells =>
      intro r hrx hry
      have hr : inGrid s.cfg r = true := (inGrid_iff _ _).mpr ⟨hrx, hry⟩
      rw [State.complete_gridRead, State.setRes_gridRead,
        gridRead_carveStep s (inGrid_stepPos hmid) (inGrid_stepPos hdest) hr, ← eq_stepPos_iff hmid,
        ← eq_stepPos_iff hdest]
      simp only [Bool.or_eq_true, decide_eq_true_eq, or_assoc]
    case bytes =>
      rintro k a1 a2 rfl rfl h1 h2
      exact gridByte_carveStep_ne s _ d h1 h2
    case frame =>
      rw [packPos_stepPos hp hdest]
      rfl
  case outOfRange =>
    have hnot : ¬ inGrid s.cfg s.posOperand = true ∨ ¬ inGridAlong s.cfg s.posOperand d 2 = true := by
      rwa [hpos', inGrid_iff]
    rw [exec_carve_of_outside hnot, State.raiseError_eq, State.complete]

/-- Settles O25: a set mask bit is an open probe, and `probeOpen_cells` puts both cells of its carve step in the
grid. -/
theorem reportedDirectionsCarveInsideTheGrid : Obligations.ReportedDirectionsCarveInsideTheGrid := by
  intro s d hp hq hbit
  obtain ⟨halong, hmid, hdest, -⟩ := probeOpen_cells hp hq ((getLsbD_nbrMask_iff s _ d).mp hbit)
  exact ⟨hmid, hdest, _, exec_carve_of_inGridAlong hq halong, rfl, rfl⟩

end Sys2Proof.Machine
end

section
/-! SUPPORT. The PRNG commands as writes of SEED and RES, and the value a draw answers as a number (spec/44_prng.md R161
to R164). -/

namespace Sys2Proof.Machine

/-- PRNG_NEXT tests nothing: it writes the seed the draw leaves and the value the draw returns (R162). -/
theorem exec_prngNext (s : State) :
    exec .prngNext s = .next ((s.setSeed s.drawState.seed).setRes s.drawValue).finish := rfl

theorem exec_prngTick (s : State) : exec .prngTick s = .next (s.setSeed (s.seed + 1)).finish := rfl

theorem exec_prngSeed (s : State) : exec .prngSeed s = .next (s.setSeed s.operand).finish := rfl

theorem drawValue_eq_ofNat (s : State) :
    s.drawValue = BitVec.ofNat 32 (min ((1103515245 * s.seed.toNat + 12345) % 2 ^ 32) 0xFFFFFFFB) := by
  rw [← toNat_drawValue, BitVec.ofNat_toNat, BitVec.setWidth_eq]

/-- A draw never answers more than the clamp (R161). -/
theorem toNat_drawValue_le (s : State) : s.drawValue.toNat ≤ 0xFFFFFFFB := by
  rw [toNat_drawValue]
  exact Nat.min_le_right _ _

/-- SEED + 1 wraps modulo 2^32 (R163). -/
theorem add_one_eq_ofNat (w : Word) : w + 1 = BitVec.ofNat 32 ((w.toNat + 1) % 2 ^ 32) := by
  apply BitVec.eq_of_toNat_eq
  rw [BitVec.toNat_add, BitVec.toNat_ofNat, Nat.mod_mod]
  rfl

end Sys2Proof.Machine
end

section
/-! PROOF. The statements of the PRNG (spec/44_prng.md R160 to R164). -/

namespace Sys2Proof.Machine

/-- Settles O27: the value and the seed of the draw are those of `drawValue_eq_ofNat` and `drawState_seed`, and the bound
is the clamp's. -/
theorem prngNextAnswersTheClampedDraw : Obligations.PrngNextAnswersTheClampedDraw := by
  refine ⟨rfl, ?_⟩
  intro s raw hraw
  refine ⟨?draw, ?bound⟩
  case draw =>
    rw [exec_prngNext, State.finish_eq, State.complete, drawValue_eq_ofNat, drawState_seed, ← hraw]
    rfl
  case bound =>
    rw [hraw, ← drawValue_eq_ofNat]
    exact toNat_drawValue_le s

/-- Settles O28: the one write of PRNG_TICK is SEED's, and the sum wraps. -/
theorem prngTickAddsOne : Obligations.PrngTickAddsOne := by
  refine ⟨rfl, fun s => ?_⟩
  rw [exec_prngTick, add_one_eq_ofNat, State.finish_eq, State.complete]
  rfl

/-- Settles O29: the one write of PRNG_SEED is SEED's, and the operand is not tested. -/
theorem prngSeedLoadsTheOperand : Obligations.PrngSeedLoadsTheOperand :=
  ⟨rfl, exec_prngSeed⟩

end Sys2Proof.Machine
end

section
/-! SUPPORT. The commands of the sequencer that run no generation, one equation each (spec/45_generator.md R181, R187). -/

namespace Sys2Proof.Machine

/-- NOP is its completion (R181). -/
theorem exec_nop (s : State) : exec .nop s = .next s.finish := rfl

/-- GEN_ACK tests nothing, not even STATE_R: from every state its one write is IDLE (R187). -/
theorem exec_genAck (s : State) : exec .genAck s = .next (s.setStateR .idle).finish := rfl

end Sys2Proof.Machine
end

section
/-! PROOF. The statements of NOP and GEN_ACK (spec/45_generator.md R181, R187). -/

namespace Sys2Proof.Machine

/-- Settles O30: NOP is a completion and nothing more (`exec_nop`), and its issue is that of every word while the machine
is ready. -/
theorem nopOnlyCompletes : Obligations.NopOnlyCompletes := by
  refine ⟨decode_encode .nop, fun s => ?completion, fun s hready => State.writeCmd_of_ready _ hready⟩
  rw [exec_nop, State.finish_eq, State.complete]

/-- Settles O31: the one write of GEN_ACK is that of STATE_R, and the completion follows it. -/
theorem genAckReturnsToIdle : Obligations.GenAckReturnsToIdle := by
  refine ⟨decode_encode .genAck, fun s => ?_⟩
  rw [exec_genAck, State.finish_eq, State.complete, State.setStateR]

end Sys2Proof.Machine
end

section
/-! SUPPORT. How a command ends: by raising an error, by finishing, or as a generation, and which ERR each end leaves
(spec/60_exceptions.md R211 to R213). -/

namespace Sys2Proof.Machine

/-- The three ends of a command: an error raised in the state before it, a finish after its writes, a generation. -/
theorem exec_next_ends {i : Instr} {s t : State} (h : exec i s = .next t) :
    (∃ e, t = s.raiseError e) ∨ (∃ u : State, t = u.finish) ∨ ∃ q, t = s.generate q := by
  rcases exec_next h with ⟨e, herr, -⟩ | hfin | hfin | ⟨v, hfin⟩ | ⟨v, -, hfin⟩ | hfin | ⟨-, hfin⟩ | ⟨-, -, hfin⟩ |
    ⟨v, hfin⟩ | ⟨d, -, -, hfin⟩ | ⟨v, hfin⟩ | ⟨q, -, hgen⟩ | hfin
  on_goal 1 => exact .inl ⟨e, herr⟩
  on_goal 11 => exact .inr (.inr ⟨q, hgen⟩)
  all_goals exact .inr (.inl ⟨_, hfin⟩)

theorem genErr_eq_ok_or_stkovf (g : GenState) : genErr g = .ok ∨ genErr g = .stkovf := by
  cases g with
  | done => exact .inl rfl
  | idle | carving | overflow => exact .inr rfl

/-- STKOVF is the one error of a generation, so it is the one error that leaves writes behind (R213). -/
theorem generate_err (s : State) (q : Pos) : (s.generate q).err = .ok ∨ (s.generate q).err = .stkovf :=
  genErr_eq_ok_or_stkovf (s.generateExit q).result

/-- A completion whose ERR is neither OK nor STKOVF is an error raised in the state before the command (R212). -/
theorem exec_next_eq_complete {i : Instr} {s t : State} (h : exec i s = .next t) (hok : t.err ≠ .ok)
    (hstkovf : t.err ≠ .stkovf) : t = s.complete t.err := by
  obtain ⟨e, rfl⟩ | ⟨u, rfl⟩ | ⟨q, rfl⟩ := exec_next_ends h
  · rfl
  · exact absurd rfl hok
  · exact absurd (generate_err s q) (not_or.mpr ⟨hok, hstkovf⟩)

end Sys2Proof.Machine
end

section
/-! PROOF. The precision of errors (spec/60_exceptions.md R212). -/

namespace Sys2Proof.Machine

/-- Settles O48: none of the four codes is OK or STKOVF, so a command that leaves one raised it in the state before
(`exec_next_eq_complete`); the completion of a word that is no command is `completeWord_of_not_command`. -/
theorem errorsArePrecise : Obligations.ErrorsArePrecise := by
  refine ⟨?command, ?illegalWord⟩
  case command =>
    intro i s t h hcode
    have hok : t.err ≠ .ok := fun hc => by simp [hc] at hcode
    have hstkovf : t.err ≠ .stkovf := fun hc => by simp [hc] at hcode
    exact exec_next_eq_complete h hok hstkovf
  case illegalWord =>
    intro c s hc
    exact completeWord_of_not_command s ((exists_decode_error_iff c).mp hc)

end Sys2Proof.Machine
end

section
/-! SUPPORT. The registers of the host window by what a host may rely on: the live ones, which read as free values while the
block is busy, those that always read exactly, and those that ignore writes (spec/20_memory.md R55, R56;
spec/70_reset_and_hazards.md R243, R247, R250). -/

namespace Sys2Proof.Machine

/-! ### Reads -/

/-- The registers whose whole word is unspecified while BUSY = 1 (R247). -/
def liveRegs : List Reg := [.cur, .seed, .stkcnt]

theorem exists_liveReg_of_offset : ∀ off ∈ [(0x10 : BitVec 6), 0x14, 0x18], ∃ r ∈ liveRegs, regAt off = some r := by
  decide

theorem hostAccess_read_live_of_busy {s : State} {off : BitVec 6} {r : Reg} (hr : regAt off = some r)
    (hlive : r ∈ liveRegs) (h : s.infl ≠ .none) : s.hostAccess (.read off) =
      { s with responses := .readOk (Config.freeLive s.draws) :: s.responses, draws := s.draws + 1 } := by
  have hbusy : s.busy = true := s.busy_iff.mpr h
  rw [hostAccess_read s hr]
  cases r with
  | cur | seed | stkcnt => simp only [State.readValue, State.readDraws, hbusy, if_true]
  | cmd | arg | res | status | geom | capr => exact absurd hlive (by decide)

/-- Of STATUS only the OVF bit is a free value while BUSY = 1 (R43, R247). -/
theorem hostAccess_read_status_of_busy {s : State} (h : s.infl ≠ .none) : s.hostAccess (.read 0x0C) =
    { s with responses := .readOk (s.statusWord (Config.freeFlag s.draws)) :: s.responses, draws := s.draws + 1 } := by
  have hbusy : s.busy = true := s.busy_iff.mpr h
  rw [hostAccess_read (r := .status) s rfl]
  simp only [State.readValue, State.readDraws, hbusy, if_true]

/-- A read that draws no free value changes nothing of the block (R55). -/
theorem hostAccess_read_of_no_draw {off : BitVec 6} {r : Reg} (s : State) (hr : regAt off = some r)
    (hdraws : s.readDraws r = 0) :
    s.hostAccess (.read off) = { s with responses := .readOk (s.readValue r) :: s.responses } := by
  rw [hostAccess_read s hr, hdraws, Nat.add_zero]

/-! ### Writes -/

theorem State.writeCmd_of_busy {s : State} (c : Word) (h : s.infl ≠ .none) :
    s.writeCmd c = { s with cmdLost := true } := by
  rw [State.writeCmd, if_pos (s.busy_iff.mpr h)]

/-- The registers R56 names as RO. -/
def readOnlyRegs : List Reg := [.res, .cur, .seed, .stkcnt, .geom, .capr]

theorem exists_readOnlyReg_of_offset : ∀ off ∈ [(0x08 : BitVec 6), 0x10, 0x14, 0x18, 0x1C, 0x20],
    ∃ r ∈ readOnlyRegs, regAt off = some r := by
  decide

theorem writeReg_readOnly {r : Reg} (s : State) (v : Word) (h : r ∈ readOnlyRegs) : s.writeReg v r = s := by
  cases r with
  | res | cur | seed | stkcnt | geom | capr => rfl
  | cmd | arg | status => exact absurd h (by decide)

theorem State.operand_of_command {s : State} {c a : Word} (h : s.infl = .command c a) : s.operand = a := by
  simp only [State.operand, h]

end Sys2Proof.Machine
end

section
/-! PROOF. The hazards of the host window: live registers while busy (spec/70_reset_and_hazards.md R247), issue (R243), and
the operand and the read-only registers (R250; spec/20_memory.md R56). -/

namespace Sys2Proof.Machine

/-- Settles O42: a live register reads through `hostAccess_read_live_of_busy`, STATUS with its OVF bit drawn, and the other
registers draw nothing. -/
theorem liveRegistersReadFreeValuesWhileBusy : Obligations.LiveRegistersReadFreeValuesWhileBusy := by
  intro s h
  refine ⟨?live, ?status, ?exact⟩
  case live =>
    intro off hoff
    obtain ⟨r, hlive, hr⟩ := exists_liveReg_of_offset off hoff
    exact hostAccess_read_live_of_busy hr hlive h
  case status =>
    exact ⟨_, hostAccess_read_status_of_busy h, (State.statusWord_busy s _).trans (s.busy_iff.mpr h),
      State.statusWord_ovf s _, State.statusWord_err s _, State.statusWord_cmdLost s _, State.statusWord_state s _⟩
  case exact =>
    intro p hp
    simp only [List.mem_cons, List.not_mem_nil, or_false] at hp
    obtain rfl | rfl | rfl | rfl := hp
    · exact hostAccess_read_of_no_draw (r := .arg) s rfl rfl
    · exact hostAccess_read_of_no_draw (r := .res) s rfl rfl
    · exact hostAccess_read_of_no_draw (r := .geom) s rfl rfl
    · exact hostAccess_read_of_no_draw (r := .capr) s rfl rfl

/-- Settles O44: INFL decides between the two cases of `State.writeCmd`, and the word is not looked at. -/
theorem cmdWriteIssuesOrIsDropped : Obligations.CmdWriteIssuesOrIsDropped := by
  intro s v
  rw [hostAccess_write (r := .cmd) s v rfl, State.writeReg]
  refine ⟨fun hready => ?issued, fun hbusy => ?dropped⟩
  case issued => rw [State.writeCmd_of_ready v hready]
  case dropped => rw [State.writeCmd_of_busy v hbusy]

/-- Settles O45: an ARG write leaves INFL, which holds the latched operand, and `writeReg_readOnly` leaves everything. -/
theorem argStoresAndReadOnlyWritesAreIgnored : Obligations.ArgStoresAndReadOnlyWritesAreIgnored := by
  intro s v
  have harg : s.hostAccess (.write 0x04 v 0b1111) = { s with arg := v, responses := .writeOk :: s.responses } :=
    hostAccess_write (r := .arg) s v rfl
  refine ⟨harg, ?latched, ?readOnly⟩
  case latched =>
    intro c a hinfl
    rw [harg]
    exact State.operand_of_command hinfl
  case readOnly =>
    intro off hoff
    obtain ⟨r, hro, hr⟩ := exists_readOnlyReg_of_offset off hoff
    rw [hostAccess_write s v hr, writeReg_readOnly s v hro]

end Sys2Proof.Machine
end

section
/-! SUPPORT. The two loops of a generation, one equation per outcome of their tests, and that a bound the measure of
R188 allows is never what ends them (spec/45_generator.md R183, R188). -/

namespace Sys2Proof.Machine

/-! ### The tests of the loops -/

theorem extendLoop_of_closed (n : Nat) {s : State} {q : Pos} (h : maskCount (s.nbrMask q) = 0) :
    extendLoop n s q = (s, q) := by
  cases n with
  | zero => rfl
  | succ n => exact if_pos h

theorem extendLoop_succ_of_open (n : Nat) {s : State} {q : Pos} (h : maskCount (s.nbrMask q) ≠ 0) :
    extendLoop (n + 1) s q =
      extendLoop n (s.extendState q (s.extendDir (s.nbrMask q))) (stepPos q (s.extendDir (s.nbrMask q)) 2) :=
  if_neg h

theorem generateLoop_of_empty (inner n : Nat) {s : State} (q : Pos) (h : s.cnt = 0) :
    generateLoop inner (n + 1) s q = ⟨s, q, .done⟩ :=
  if_pos h

theorem generateLoop_of_abort (inner n : Nat) {s : State} (q : Pos) (h : s.cnt ≠ 0) (ha : s.ovfAbort = true) :
    generateLoop inner (n + 1) s q = ⟨s, q, .overflow⟩ :=
  (if_neg h).trans (if_pos ha)

theorem generateLoop_of_goes_on (inner n : Nat) {s : State} (q : Pos) (h : s.cnt ≠ 0) (ha : ¬ s.ovfAbort = true) :
    generateLoop inner (n + 1) s q =
      generateLoop inner n (extendLoop inner s q).1.popState (unpackPos (extendLoop inner s q).1.popValue) :=
  (if_neg h).trans (if_neg ha)

/-! ### The bounds -/

/-- Where every cell is carved no neighbor is open: an iteration would lower the measure. -/
theorem maskCount_of_uncarved_zero {s : State} {q : Pos} (h : PathInv s q) (hu : s.uncarved = 0) :
    maskCount (s.nbrMask q) = 0 := by
  by_contra hm
  have hlt := uncarved_extendState h.legal h.here (probeOpen_extendDir hm)
  omega

theorem extendLoop_bound_irrelevant {n m : Nat} {s : State} {q : Pos} (h : PathInv s q) (hn : s.uncarved ≤ n)
    (hm : s.uncarved ≤ m) : extendLoop n s q = extendLoop m s q := by
  induction n generalizing m s q with
  | zero =>
    have hclosed := maskCount_of_uncarved_zero h (Nat.le_zero.mp hn)
    rw [extendLoop_of_closed 0 hclosed, extendLoop_of_closed m hclosed]
  | succ n ih =>
    by_cases hclosed : maskCount (s.nbrMask q) = 0
    · rw [extendLoop_of_closed _ hclosed, extendLoop_of_closed m hclosed]
    · obtain ⟨hnext, -, hlt⟩ := h.extend (probeOpen_extendDir hclosed)
      obtain ⟨m, rfl⟩ := Nat.exists_eq_add_of_lt (Nat.zero_lt_of_lt (hlt.trans_le hm))
      rw [Nat.zero_add, extendLoop_succ_of_open n hclosed, extendLoop_succ_of_open m hclosed]
      exact ih hnext (by omega) (by omega)

/-- The inner loop only pushes, and in a generation the count never wraps (R183). -/
theorem PathInv.extendLoop_cnt_ne {inner : Nat} {s : State} {q : Pos} (h : PathInv s q) (hc : s.cnt ≠ 0)
    (hin : s.uncarved ≤ inner) : (extendLoop inner s q).1.cnt ≠ 0 := by
  obtain ⟨-, -, -, hcnt, -⟩ := extendLoop_spec inner s q h hin
  intro hzero
  rw [hzero] at hcnt
  exact absurd hcnt (Nat.not_le.mpr (toNat_pos_of_ne hc))

/-- What one outer iteration leaves of the path's invariant and of the measure: the pop lowers it (R188). -/
theorem PathInv.outer {inner : Nat} {s : State} {q : Pos} (h : PathInv s q) (hc : s.cnt ≠ 0)
    (hin : s.uncarved ≤ inner) :
    PathInv (extendLoop inner s q).1.popState (unpackPos (extendLoop inner s q).1.popValue) ∧
      (extendLoop inner s q).1.popState.uncarved ≤ s.uncarved ∧
      (extendLoop inner s q).1.popState.cnt.toNat + (extendLoop inner s q).1.popState.uncarved <
        s.cnt.toNat + s.uncarved := by
  obtain ⟨hend, -, hsum, hcnt, -⟩ := extendLoop_spec inner s q h hin
  obtain ⟨hpop, hpred⟩ := hend.pop (h.extendLoop_cnt_ne hc hin)
  have hu : (extendLoop inner s q).1.popState.uncarved = (extendLoop inner s q).1.uncarved := uncarved_congr rfl rfl
  exact ⟨hpop, by omega, by omega⟩

theorem generateLoop_bounds_irrelevant {inner inner' n n' : Nat} {s : State} {q : Pos} (h : PathInv s q)
    (hin : s.uncarved ≤ inner) (hin' : s.uncarved ≤ inner') (hn : s.cnt.toNat + s.uncarved < n)
    (hn' : s.cnt.toNat + s.uncarved < n') : generateLoop inner n s q = generateLoop inner' n' s q := by
  induction n generalizing n' s q with
  | zero => omega
  | succ n ih =>
    obtain ⟨n', rfl⟩ := Nat.exists_eq_add_of_lt (Nat.zero_lt_of_lt hn')
    rw [Nat.zero_add] at hn' ⊢
    by_cases hc : s.cnt = 0
    · rw [generateLoop_of_empty inner n q hc, generateLoop_of_empty inner' n' q hc]
    · by_cases ha : s.ovfAbort = true
      · rw [generateLoop_of_abort inner n q hc ha, generateLoop_of_abort inner' n' q hc ha]
      · obtain ⟨hnext, hu, hlt⟩ := h.outer hc hin
        rw [generateLoop_of_goes_on inner n q hc ha, generateLoop_of_goes_on inner' n' q hc ha,
          ← extendLoop_bound_irrelevant h hin hin']
        exact ih hnext (by omega) (by omega) (by omega) (by omega)

/-! ### Induction with the two loops apart -/

/-- Induction over the outer loop: `P` is what every test of the outer loop finds, `Q` what every test of the inner
loop finds. The inner loop is entered after both outer tests have failed, and a pop is made at a dead end. -/
theorem generateLoop_induct {P Q : State → Pos → Prop}
    (henter : ∀ s q, PathInv s q → s.cnt ≠ 0 → ¬ s.ovfAbort = true → P s q → Q s q)
    (hext : ∀ s q, PathInv s q → Q s q → s.probeOpen q (s.extendDir (s.nbrMask q)) = true →
      Q (s.extendState q (s.extendDir (s.nbrMask q))) (stepPos q (s.extendDir (s.nbrMask q)) 2))
    (hpop : ∀ s q, PathInv s q → s.cnt ≠ 0 → maskCount (s.nbrMask q) = 0 → Q s q →
      P s.popState (unpackPos s.popValue))
    {inner n : Nat} {s : State} {q : Pos} (h : PathInv s q) (hin : s.uncarved ≤ inner) (hP : P s q) :
    P (generateLoop inner n s q).state (generateLoop inner n s q).pos := by
  induction n generalizing s q with
  | zero => exact hP
  | succ n ih =>
    by_cases hc : s.cnt = 0
    · rwa [generateLoop_of_empty inner n q hc]
    · by_cases ha : s.ovfAbort = true
      · rwa [generateLoop_of_abort inner n q hc ha]
      · rw [generateLoop_of_goes_on inner n q hc ha]
        obtain ⟨hnext, hu, -⟩ := h.outer hc hin
        obtain ⟨hend, hdead, -⟩ := extendLoop_spec inner s q h hin
        obtain ⟨-, hQ⟩ := extendLoop_induct (fun s q => PathInv s q ∧ Q s q)
          (fun s q ⟨hi, hQ⟩ hm =>
            ⟨(hi.extend (probeOpen_extendDir hm)).1, hext s q hi hQ (probeOpen_extendDir hm)⟩)
          inner s q ⟨h, henter s q h hc ha hP⟩
        exact ih hnext (hu.trans hin) (hpop _ _ hend (h.extendLoop_cnt_ne hc hin) hdead hQ)

/-- The same over a whole generation, from its start. -/
theorem generateExit_induct_loops {P Q : State → Pos → Prop}
    (henter : ∀ s q, PathInv s q → s.cnt ≠ 0 → ¬ s.ovfAbort = true → P s q → Q s q)
    (hext : ∀ s q, PathInv s q → Q s q → s.probeOpen q (s.extendDir (s.nbrMask q)) = true →
      Q (s.extendState q (s.extendDir (s.nbrMask q))) (stepPos q (s.extendDir (s.nbrMask q)) 2))
    (hpop : ∀ s q, PathInv s q → s.cnt ≠ 0 → maskCount (s.nbrMask q) = 0 → Q s q →
      P s.popState (unpackPos s.popValue))
    {s : State} {q : Pos} (hp : s.cfg.legal = true) (hq : inGrid s.cfg q = true) (hP : P (s.generateStart q) q) :
    P (s.generateExit q).state (s.generateExit q).pos := by
  obtain ⟨hinv, -, hroom⟩ := generateStart_pathInv s q hp hq
  exact generateLoop_induct henter hext hpop hinv (by omega) hP

end Sys2Proof.Machine
end

section
/-! PROOF. The iteration bounds of the model's generator (spec/45_generator.md R188). -/

namespace Sys2Proof.Machine

/-- Settles O34: the start has the path invariant, and its measure is below both pairs of bounds, so neither ends a
loop (`generateLoop_bounds_irrelevant`). -/
theorem loopBoundsNeverEndAGeneration : Obligations.LoopBoundsNeverEndAGeneration := by
  intro s q inner outer hp hq hin hout
  obtain ⟨hinv, hcnt, hroom⟩ := generateStart_pathInv s q hp hq
  have hone : (s.generateStart q).cnt.toNat = 1 := by rw [hcnt]; rfl
  exact generateLoop_bounds_irrelevant hinv (by omega) (by omega) (by omega) (by omega)

end Sys2Proof.Machine
end

section
/-! SUPPORT. What a generation reads and writes: the cells after an inner iteration, the bytes outside the grid and
the slots, the fields that no iteration touches, and GEN_RUN as a generation (spec/45_generator.md R182 to R184). -/

namespace Sys2Proof.Machine

/-! ### Cells -/

/-- The cells after an inner iteration towards an open direction: its two cells are carved, the others stay (R183). -/
theorem PathInv.gridRead_extend {s : State} {q r : Pos} {d : Dir} (h : PathInv s q) (hd : s.probeOpen q d = true)
    (hr : inGrid s.cfg r = true) : (s.extendState q d).gridRead r =
      (decide (r = stepPos q d 1) || decide (r = stepPos q d 2) || s.gridRead r) := by
  obtain ⟨-, hmid, hdest, -⟩ := probeOpen_cells h.legal h.here hd
  rw [gridRead_extendState, gridRead_carveStep s hmid hdest hr]

theorem PathInv.carved_extend {s : State} {q r : Pos} {d : Dir} (h : PathInv s q) (hd : s.probeOpen q d = true)
    (hr : inGrid s.cfg r = true) (hc : s.gridRead r = true) : (s.extendState q d).gridRead r = true := by
  rw [h.gridRead_extend hd hr, hc, Bool.or_true]

theorem gridRead_generateStart (s : State) {q r : Pos} (hq : inGrid s.cfg q = true) (hr : inGrid s.cfg r = true) :
    (s.generateStart q).gridRead r = decide (r = q) := by
  rw [State.generateStart, State.stkPush_gridRead, gridRead_gridWrite s.gridClear.stkReset true hq hr,
    State.stkReset_gridRead, gridRead_gridClear]
  split
  case isTrue he => exact (decide_eq_true he).symm
  case isFalse hne => exact (decide_eq_false hne).symm

/-! ### Storage -/

theorem GridInv.carveStep {s : State} (h : GridInv s) {q : Pos} {d : Dir} (h1 : inGrid s.cfg (stepPos q d 1) = true)
    (h2 : inGrid s.cfg (stepPos q d 2) = true) : GridInv (s.carveStep q d) :=
  (h.gridWrite true h1).gridWrite true h2

theorem GridInv.extendState {s : State} {q : Pos} {d : Dir} (h : GridInv s) (hq : inGrid s.cfg q = true)
    (hd : s.probeOpen q d = true) : GridInv (s.extendState q d) := by
  obtain ⟨-, hmid, hdest, -⟩ := probeOpen_cells h.legal hq hd
  exact (h.carveStep hmid hdest).of_eq rfl rfl

theorem gridInv_generateStart {s : State} {q : Pos} (hp : s.cfg.legal = true) (hq : inGrid s.cfg q = true) :
    GridInv (s.generateStart q) :=
  ((GridInv.gridClear hp).gridWrite true hq).of_eq rfl rfl

theorem Memory.find?_of_within {n k : Nat} {m : Memory} (h : Memory.within n m = true) (hk : 4 * n ≤ k) :
    Memory.find? m k = none := by
  induction m with
  | nil => rfl
  | cons c m ih =>
    obtain ⟨hlt, hm⟩ := (Bool.and_eq_true _ _).mp h
    rw [Memory.find?, if_neg, ih hm]
    exact fun he => absurd (of_decide_eq_true hlt) (Nat.not_lt.mpr (he ▸ hk))

/-- Nothing is written outside the grid's NWORDS words (R59). -/
theorem GridInv.gridByte_outside {s : State} (h : GridInv s) {k : Nat} (hk : 4 * nwords s.cfg ≤ k) :
    s.gridByte k = 0 := by
  rw [State.gridByte, Memory.byte, Memory.find?_of_within h.within hk, Option.getD_none]

theorem PathInv.idx_lt {s : State} {q : Pos} (h : PathInv s q) : s.idx < s.cfg.cap :=
  h.ring ▸ Nat.mod_lt _ (cap_bounds_of_legal h.legal).1

/-- Nothing is written outside the CAP slots (R23). -/
theorem slotByte_stkPush_outside {s : State} (h : s.idx < s.cfg.cap) (v : Word) {k : Nat} (hk : 4 * s.cfg.cap ≤ k) :
    (s.stkPush v).slotByte k = s.slotByte k :=
  slotByte_stkPush_ne s v (.inr (by omega))

/-! ### The frame -/

/-- `t` is `s` with no more changed than the loops of a generation write: the grid, the stack and SEED (R183). -/
def GenFrame (s t : State) : Prop :=
  t = { s with grid := t.grid, slots := t.slots, idx := t.idx, cnt := t.cnt, ovf := t.ovf, seed := t.seed }

theorem GenFrame.trans {s t u : State} (h : GenFrame s t) (h' : GenFrame t u) : GenFrame s u := by
  refine Eq.trans h' ?_
  rw [h]

theorem GenFrame.cfg {s t : State} (h : GenFrame s t) : t.cfg = s.cfg := by
  rw [h]

theorem genFrame_generateStart (s : State) (q : Pos) : GenFrame s (s.generateStart q) := rfl

theorem genFrame_extendState (s : State) (q : Pos) (d : Dir) : GenFrame s (s.extendState q d) := rfl

theorem genFrame_popState (s : State) : GenFrame s s.popState := rfl

theorem genFrame_generateExit {s : State} {q : Pos} (hp : s.cfg.legal = true) (hq : inGrid s.cfg q = true) :
    GenFrame s (s.generateExit q).state :=
  generateExit_induct (fun t _ => GenFrame s t)
    (fun _ _ _ _ h _ => h.trans (genFrame_extendState ..)) (fun _ _ _ _ h => h.trans (genFrame_popState _))
    s q hp hq (genFrame_generateStart s q)

/-! ### The fields of a generation -/

@[simp] theorem State.generate_gridRead (s : State) (q r : Pos) :
    (s.generate q).gridRead r = (s.generateExit q).state.gridRead r := rfl
@[simp] theorem State.generate_gridByte (s : State) (q : Pos) (k : Nat) :
    (s.generate q).gridByte k = (s.generateExit q).state.gridByte k := rfl
@[simp] theorem State.generate_slotByte (s : State) (q : Pos) (k : Nat) :
    (s.generate q).slotByte k = (s.generateExit q).state.slotByte k := rfl
@[simp] theorem State.generate_idx (s : State) (q : Pos) : (s.generate q).idx = (s.generateExit q).state.idx := rfl
@[simp] theorem State.generate_cnt (s : State) (q : Pos) : (s.generate q).cnt = (s.generateExit q).state.cnt := rfl
@[simp] theorem State.generate_ovf (s : State) (q : Pos) : (s.generate q).ovf = (s.generateExit q).state.ovf := rfl
@[simp] theorem State.generate_cur (s : State) (q : Pos) : (s.generate q).cur = packPos (s.generateExit q).pos := rfl
@[simp] theorem State.generate_stateR (s : State) (q : Pos) : (s.generate q).stateR = (s.generateExit q).result := rfl
@[simp] theorem State.generate_err (s : State) (q : Pos) : (s.generate q).err = genErr (s.generateExit q).result := rfl

/-- What a generation leaves alone: RES, ARG, CMDLOST and the model's own fields (R183). -/
theorem generate_frame {s : State} {q : Pos} (hp : s.cfg.legal = true) (hq : inGrid s.cfg q = true) :
    s.generate q = { s with
      grid := (s.generate q).grid, slots := (s.generate q).slots, idx := (s.generate q).idx
      cnt := (s.generate q).cnt, ovf := (s.generate q).ovf, seed := (s.generate q).seed, cur := (s.generate q).cur
      stateR := (s.generate q).stateR, err := (s.generate q).err, infl := .none } := by
  have hframe := genFrame_generateExit hp hq
  rw [State.generate, State.complete]
  generalize s.generateExit q = e at hframe ⊢
  rw [hframe]

/-! ### GEN_RUN -/

theorem exec_genRun_of_inGrid {s : State} (h : inGrid s.cfg s.posOperand = true) :
    exec .genRun s = .next (s.generate s.posOperand) :=
  if_pos h

theorem exec_genRun_of_not_inGrid {s : State} (h : ¬ inGrid s.cfg s.posOperand = true) :
    exec .genRun s = .next (s.raiseError .range) :=
  if_neg h

theorem exec_genCenter (s : State) : exec .genCenter s = .next (s.generate (centerPos s.cfg)) := rfl

/-- The next state of a GEN_RUN that completed from a start in the grid. -/
theorem eq_generate_of_exec_genRun {s t : State} (hq : inGrid s.cfg s.posOperand = true)
    (h : exec .genRun s = .next t) : t = s.generate s.posOperand :=
  Host.Outcome.next.inj (h.symm.trans (exec_genRun_of_inGrid hq))

theorem ovfAbort_of_sticky {s : State} (h : s.cfg.ovfAbortMode = .sticky) : s.ovfAbort = s.ovf := by
  rw [State.ovfAbort, h]

theorem ovfAbort_of_count {s : State} (h : s.cfg.ovfAbortMode = .count) :
    s.ovfAbort = decide (s.cfg.cap < s.cnt.toNat) := by
  rw [State.ovfAbort, h]

end Sys2Proof.Machine
end

section
/-! PROOF. How a generation ends, and what it leaves alone (spec/45_generator.md R182 to R185, R189). -/

namespace Sys2Proof.Machine

/-- What every state of a generation of `s₀` from `q₀` has: the start is carved, the grid is in form, and no byte
outside the slots has changed. -/
structure GenInside (s₀ : State) (q₀ : Pos) (s : State) : Prop where
  frame : GenFrame s₀ s
  start : s.gridRead q₀ = true
  grid : GridInv s
  slots : ∀ k, 4 * s₀.cfg.cap ≤ k → s.slotByte k = s₀.slotByte k

theorem genInside_generateStart {s : State} {q : Pos} (hp : s.cfg.legal = true) (hq : inGrid s.cfg q = true) :
    GenInside s q (s.generateStart q) where
  frame := genFrame_generateStart s q
  start := by rw [gridRead_generateStart s hq hq, decide_eq_true rfl]
  grid := gridInv_generateStart hp hq
  slots := fun k hk =>
    slotByte_stkPush_outside (s := s.gridClear.stkReset.gridWrite q true) (cap_bounds_of_legal hp).1 (packPos q) hk

theorem GenInside.extend {s₀ s : State} {q₀ q : Pos} {d : Dir} (h : GenInside s₀ q₀ s)
    (hq₀ : inGrid s₀.cfg q₀ = true) (hpath : PathInv s q) (hd : s.probeOpen q d = true) :
    GenInside s₀ q₀ (s.extendState q d) where
  frame := h.frame.trans (genFrame_extendState ..)
  start := hpath.carved_extend hd (h.frame.cfg ▸ hq₀) h.start
  grid := h.grid.extendState hpath.here hd
  slots := fun k hk =>
    (slotByte_stkPush_outside hpath.idx_lt (packPos q) (h.frame.cfg ▸ hk)).trans (h.slots k hk)

theorem GenInside.pop {s₀ s : State} {q₀ : Pos} (h : GenInside s₀ q₀ s) : GenInside s₀ q₀ s.popState where
  frame := h.frame.trans (genFrame_popState s)
  start := h.start
  grid := h.grid.of_eq rfl rfl
  slots := h.slots

theorem genInside_generateExit {s : State} {q : Pos} (hp : s.cfg.legal = true) (hq : inGrid s.cfg q = true) :
    GenInside s q (s.generateExit q).state :=
  generateExit_induct (fun t _ => GenInside s q t) (fun _ _ hpath _ h hd => h.extend hq hpath hd)
    (fun _ _ _ _ h => h.pop) s q hp hq (genInside_generateStart hp hq)

/-- Settles O32: `generateExit_spec` says how the loops end, the path's invariant ties IDX to CNT and keeps the
position in the grid, and `GenInside` holds from the start to the end. -/
theorem genRunCompletes : Obligations.GenRunCompletes := by
  intro s hp hq
  obtain ⟨hpath, hcfg, hend⟩ := generateExit_spec s s.posOperand hp hq
  have hinside := genInside_generateExit hp hq
  have hring := hpath.ring
  rw [hcfg] at hring
  refine ⟨_, exec_genRun_of_inGrid hq, ?outcome, hinside.start, ?position, ?gridBytes, hinside.slots,
    generate_frame hp hq⟩
  case outcome =>
    simp only [State.generate_stateR, State.generate_err, State.generate_cnt, State.generate_idx, State.generate_ovf]
    obtain ⟨hres, hcnt⟩ | ⟨hres, hcnt, habort⟩ := hend
    · rw [hcnt] at hring
      exact .inl ⟨hres, by rw [hres, genErr], hcnt, hring.trans (Nat.zero_mod _)⟩
    · refine .inr ⟨hres, by rw [hres, genErr], hcnt, hring, fun hmode => ?sticky, fun hmode => ?count⟩
      case sticky => rwa [ovfAbort_of_sticky (hcfg ▸ hmode)] at habort
      case count => rwa [ovfAbort_of_count (hcfg ▸ hmode), hcfg, decide_eq_true_eq] at habort
  case position =>
    rw [State.generate_cur, unpackPos_packPos_of_inGrid hpath.legal hpath.here, ← hcfg]
    exact hpath.here
  case gridBytes => exact fun k hk => hinside.grid.gridByte_outside (hcfg.symm ▸ hk)

/-- In STICKY mode, at the tests of the outer loop: an overflow seen there leaves words on the stack. The inner loop
is entered without overflow, so an overflow in it leaves more than CAP words, and one pop does not empty the stack. -/
theorem cnt_ne_of_ovf_generateExit {s : State} {q : Pos} (hp : s.cfg.legal = true) (hq : inGrid s.cfg q = true)
    (hmode : s.cfg.ovfAbortMode = .sticky) :
    (s.generateExit q).state.ovf = true → (s.generateExit q).state.cnt ≠ 0 := by
  refine (generateExit_induct_loops
    (P := fun t _ => t.cfg = s.cfg ∧ (t.ovf = true → t.cnt ≠ 0))
    (Q := fun t _ => t.cfg = s.cfg ∧ (t.ovf = true → t.cfg.cap < t.cnt.toNat))
    ?enter ?ext ?pop hp hq ?start).2
  case enter =>
    rintro t _ - - hgo ⟨hcfg, -⟩
    rw [ovfAbort_of_sticky (hcfg ▸ hmode)] at hgo
    exact ⟨hcfg, fun h => absurd h hgo⟩
  case ext =>
    rintro t r hpath ⟨hcfg, hov⟩ hd
    obtain ⟨-, hcnt, -⟩ := hpath.extend hd
    refine ⟨hcfg, fun h => ?_⟩
    rw [hcnt, extendState_cfg]
    obtain h | h := (ovfAfterPush_iff _ _ _).mp h
    · exact Nat.lt_succ_of_lt (hov h)
    · exact hcnt ▸ h
  case pop =>
    rintro t r hpath hc - ⟨hcfg, hov⟩
    obtain ⟨-, hcnt⟩ := hpath.pop hc
    refine ⟨hcfg, fun h hzero => ?_⟩
    have hlt := hov h
    have hcap := (cap_bounds_of_legal hpath.legal).1
    rw [hzero] at hcnt
    simp only [BitVec.ofNat_eq_ofNat, BitVec.toNat_ofNat, Nat.zero_mod] at hcnt
    omega
  case start =>
    refine ⟨rfl, fun _ => ?_⟩
    obtain ⟨-, hcnt, -⟩ := generateStart_pathInv s q hp hq
    rw [hcnt]
    decide

/-- Settles O35: DONE means an empty stack, so no overflow (`cnt_ne_of_ovf_generateExit`); OVERFLOW means the test of
STICKY mode, which is OVF itself. -/
theorem stickyDoneMeansNoOverflow : Obligations.StickyDoneMeansNoOverflow := by
  intro s hp hq hmode
  obtain ⟨-, hcfg, hend⟩ := generateExit_spec s s.posOperand hp hq
  refine ⟨_, exec_genRun_of_inGrid hq, ?_⟩
  simp only [State.generate_stateR, State.generate_ovf]
  obtain ⟨hres, hcnt⟩ | ⟨hres, -, habort⟩ := hend
  · have hov : (s.generateExit s.posOperand).state.ovf = false :=
      Bool.eq_false_iff.mpr fun h => cnt_ne_of_ovf_generateExit hp hq hmode h hcnt
    simp [hres, hov]
  · rw [ovfAbort_of_sticky (hcfg ▸ hmode)] at habort
    simp [hres, habort]

end Sys2Proof.Machine
end

section
/-! SUPPORT. A generation whose stack has not overflowed is one with an unbounded stack (spec/42_stack.md R127,
spec/45_generator.md R189): the induction over the words that stack holds. -/

namespace Sys2Proof.Machine

theorem State.representsStack.ovf_of_extend {s : State} {q : Pos} {d : Dir} {l : List Word}
    (h : s.representsStack l) (hp : s.cfg.legal = true) (ho : (s.extendState q d).ovf = false) :
    s.ovf = false ∧ l.length < s.cfg.cap := by
  obtain ⟨-, hle, hcnt, -⟩ := h
  obtain ⟨-, -, ⟨-, hcap⟩, -⟩ := (Params.legal_iff _).mp hp
  have hsum : (s.cnt + 1).toNat = l.length + 1 := by rw [toNat_succ_of_lt (by omega), hcnt]
  obtain ⟨hov, hroom⟩ := not_or.mp ((ovfAfterPush_iff s.cfg.cap (s.cnt + 1) s.ovf).not.mp (Bool.eq_false_iff.mp ho))
  exact ⟨Bool.eq_false_iff.mpr hov, by omega⟩

/-- The push of an inner iteration that does not overflow is the unbounded stack's. -/
theorem State.representsStack.extendState {s : State} {q : Pos} {d : Dir} {l : List Word} (h : s.representsStack l)
    (hp : s.cfg.legal = true) (ho : (s.extendState q d).ovf = false) :
    (s.extendState q d).representsStack (packPos q :: l) :=
  (h.stkPush hp (h.ovf_of_extend hp ho).2 (packPos q)).congr rfl

theorem representsStack_generateStart {s : State} (q : Pos) (hp : s.cfg.legal = true) :
    (s.generateStart q).representsStack [packPos q] :=
  have hempty : (s.gridClear.stkReset.gridWrite q true).representsStack [] :=
    (representsStack_stkReset (s := s.gridClear) hp).congr rfl
  hempty.stkPush hp (cap_bounds_of_legal hp).1 (packPos q)

/-- Induction over a generation that has not overflowed, over the words on its stack: the start is pushed first, an
inner iteration pushes the position it leaves, and a pop at a dead end goes back to the word on top. -/
theorem generateExit_induct_unbounded {F : State → Pos → List Word → Prop}
    (hext : ∀ s q l, PathInv s q → F s q l → s.probeOpen q (s.extendDir (s.nbrMask q)) = true →
      F (s.extendState q (s.extendDir (s.nbrMask q))) (stepPos q (s.extendDir (s.nbrMask q)) 2) (packPos q :: l))
    (hpop : ∀ s q v l, PathInv s q → maskCount (s.nbrMask q) = 0 → F s q (v :: l) →
      F s.popState (unpackPos v) l)
    {s : State} {q : Pos} (hp : s.cfg.legal = true) (hq : inGrid s.cfg q = true)
    (hstart : F (s.generateStart q) q [packPos q]) (ho : (s.generateExit q).state.ovf = false) :
    ∃ l, (s.generateExit q).state.representsStack l ∧ F (s.generateExit q).state (s.generateExit q).pos l := by
  refine generateExit_induct_loops
    (P := fun t r => t.ovf = false → ∃ l, t.representsStack l ∧ F t r l)
    (Q := fun t r => t.ovf = false → ∃ l, t.representsStack l ∧ F t r l)
    (fun _ _ _ _ _ h => h) ?ext ?pop hp hq (fun _ => ⟨_, representsStack_generateStart q hp, hstart⟩) ho
  case ext =>
    intro t r hpath hF hd ho
    by_cases hov : t.ovf = true
    · exact absurd ho (by rw [Bool.not_eq_false]; exact (ovfAfterPush_iff _ _ _).mpr (.inl hov))
    · obtain ⟨l, hl, hFl⟩ := hF (Bool.eq_false_iff.mpr hov)
      exact ⟨_, hl.extendState hpath.legal ho, hext t r l hpath hFl hd⟩
  case pop =>
    intro t r hpath hc hdead hF ho
    obtain ⟨l, hl, hFl⟩ := hF ho
    cases l with
    | nil => exact absurd hl.cnt_eq_zero hc
    | cons v l =>
      rw [hl.popValue]
      exact ⟨l, hl.popState, hpop t r v l hpath hdead hFl⟩

/-- What such a generation has when it ends in DONE: the stack is empty. -/
theorem generateExit_done_unbounded {F : State → Pos → List Word → Prop}
    (hext : ∀ s q l, PathInv s q → F s q l → s.probeOpen q (s.extendDir (s.nbrMask q)) = true →
      F (s.extendState q (s.extendDir (s.nbrMask q))) (stepPos q (s.extendDir (s.nbrMask q)) 2) (packPos q :: l))
    (hpop : ∀ s q v l, PathInv s q → maskCount (s.nbrMask q) = 0 → F s q (v :: l) →
      F s.popState (unpackPos v) l)
    {s : State} {q : Pos} (hp : s.cfg.legal = true) (hq : inGrid s.cfg q = true)
    (hstart : F (s.generateStart q) q [packPos q]) (hdone : (s.generateExit q).result = .done)
    (ho : (s.generateExit q).state.ovf = false) : F (s.generateExit q).state (s.generateExit q).pos [] := by
  obtain ⟨l, ⟨-, -, hcnt, -⟩, hF⟩ := generateExit_induct_unbounded hext hpop hp hq hstart ho
  obtain ⟨-, -, ⟨-, hzero⟩ | ⟨hres, -⟩⟩ := generateExit_spec s q hp hq
  · rw [hzero] at hcnt
    rwa [List.eq_nil_of_length_eq_zero hcnt.symm] at hF
  · rw [hdone] at hres
    cases hres

end Sys2Proof.Machine
end

section
/-! PROOF. A finished generation is back at its start (spec/45_generator.md R189). -/

namespace Sys2Proof.Machine

theorem packPos_unpackPos (w : Word) : packPos (unpackPos w) = w := by
  apply BitVec.eq_of_toNat_eq
  simp only [packPos, unpackPos, toNat_append_eq_add, BitVec.toNat_ofNat, BitVec.extractLsb'_toNat,
    Nat.shiftRight_eq_div_pow]
  omega

/-- Settles O36: the words on the stack below the position have the start at the bottom all along, so the position
over an empty stack is the start. -/
theorem doneReturnsToTheStart : Obligations.DoneReturnsToTheStart := by
  intro s t hp hq hexec hdone ho
  obtain rfl := eq_generate_of_exec_genRun hq hexec
  obtain ⟨hpath, -, ⟨-, hcnt⟩ | ⟨hres, -⟩⟩ := generateExit_spec s s.posOperand hp hq
  · have hidx : (s.generateExit s.posOperand).state.idx = 0 := by
      rw [hpath.ring, hcnt]
      exact Nat.zero_mod _
    have hbottom : ([packPos (s.generateExit s.posOperand).pos] : List Word).getLast? = some (packPos s.posOperand) :=
      generateExit_done_unbounded (F := fun _ r l => (packPos r :: l).getLast? = some (packPos s.posOperand))
        (fun _ _ _ _ h _ => by rwa [List.getLast?_cons_cons])
        (fun _ _ v _ _ _ h => by rwa [List.getLast?_cons_cons, ← packPos_unpackPos v] at h)
        hp hq rfl hdone ho
    rw [List.getLast?_singleton, Option.some_inj] at hbottom
    exact ⟨hcnt, hidx, hbottom.trans (packPos_unpackPos s.operand)⟩
  · rw [State.generate_stateR, hres] at hdone
    cases hdone

end Sys2Proof.Machine
end

section
/-! SUPPORT. The lattice of a start, and the bound tests of the neighbor rule apart from its probes
(spec/43_neighbor_carve.md R140, spec/45_generator.md R189). -/

namespace Sys2Proof.Machine

/-! ### The lattice -/

theorem onLattice_iff (q r : Pos) : onLattice q r = true ↔ r.x % 2 = q.x % 2 ∧ r.y % 2 = q.y % 2 := by
  rw [onLattice, Bool.and_eq_true, decide_eq_true_eq, decide_eq_true_eq]

theorem onLattice_self (q : Pos) : onLattice q q = true :=
  (onLattice_iff q q).mpr ⟨rfl, rfl⟩

/-- One coordinate of a unit vector is even, the other odd (R14). -/
theorem unit_parity (d : Dir) : (unitX d % 2 = 0 ∧ unitY d % 2 = 1) ∨ (unitX d % 2 = 1 ∧ unitY d % 2 = 0) := by
  cases d <;> decide

theorem coords_stepPos {p : Params} {q : Pos} {d : Dir} {n : Nat} (h : inGridAlong p q d n = true) :
    ((stepPos q d n).x : Int) = q.x + n * unitX d ∧ ((stepPos q d n).y : Int) = q.y + n * unitY d :=
  (eq_stepPos_iff h).mp rfl

theorem onLattice_stepPos_two {p : Params} {q₀ q : Pos} {d : Dir} (h : inGridAlong p q d 2 = true)
    (hq : onLattice q₀ q = true) : onLattice q₀ (stepPos q d 2) = true := by
  rw [onLattice_iff] at hq ⊢
  obtain ⟨hx, hy⟩ := coords_stepPos h
  push_cast at hx hy
  omega

/-- The cell between two lattice cells shares one parity of the start and misses the other. -/
theorem onLattice_stepPos_one {p : Params} {q₀ q : Pos} {d : Dir} (h : inGridAlong p q d 1 = true)
    (hq : onLattice q₀ q = true) : onLattice q₀ (stepPos q d 1) = false ∧
      ((stepPos q d 1).x % 2 = q₀.x % 2 ∨ (stepPos q d 1).y % 2 = q₀.y % 2) := by
  rw [onLattice_iff] at hq
  rw [Bool.eq_false_iff, Ne, onLattice_iff]
  obtain ⟨hx, hy⟩ := coords_stepPos h
  have hunit := unit_parity d
  push_cast at hx hy
  omega

/-! ### The bound tests -/

/-- The bound test of the direction in the neighbor rule (R140). -/
def boundTest (p : Params) (q : Pos) : Dir → Prop
  | .north => p.nearMargin ≤ q.y
  | .east => q.x + p.farMargin ≤ p.w
  | .south => q.y + p.farMargin ≤ p.h
  | .west => p.nearMargin ≤ q.x

theorem stepPos_two_north (q : Pos) : stepPos q .north 2 = ⟨q.x, q.y - 2⟩ := by
  simp only [stepPos, alongX, alongY, unitX, unitY, Pos.mk.injEq]
  omega

theorem stepPos_two_east (q : Pos) : stepPos q .east 2 = ⟨q.x + 2, q.y⟩ := by
  simp only [stepPos, alongX, alongY, unitX, unitY, Pos.mk.injEq]
  omega

theorem stepPos_two_south (q : Pos) : stepPos q .south 2 = ⟨q.x, q.y + 2⟩ := by
  simp only [stepPos, alongX, alongY, unitX, unitY, Pos.mk.injEq]
  omega

theorem stepPos_two_west (q : Pos) : stepPos q .west 2 = ⟨q.x - 2, q.y⟩ := by
  simp only [stepPos, alongX, alongY, unitX, unitY, Pos.mk.injEq]
  omega

/-- A direction is open iff its bound test holds and the cell two away is uncarved (R140). -/
theorem probeOpen_iff (s : State) (q : Pos) (d : Dir) :
    s.probeOpen q d = true ↔ boundTest s.cfg q d ∧ s.gridRead (stepPos q d 2) = false := by
  cases d with
  | north => rw [probeOpen_north_iff, stepPos_two_north, boundTest]
  | east => rw [probeOpen_east_iff, stepPos_two_east, boundTest]
  | south => rw [probeOpen_south_iff, stepPos_two_south, boundTest]
  | west => rw [probeOpen_west_iff, stepPos_two_west, boundTest]

/-- A bound test of a legal build keeps the carve step in the grid (R146). -/
theorem inGridAlong_of_boundTest {p : Params} {q : Pos} {d : Dir} (hp : p.legal = true) (hq : inGrid p q = true)
    (h : boundTest p q d) : inGridAlong p q d 2 = true := by
  rw [Params.legal_iff] at hp
  rw [inGrid_iff] at hq
  rw [inGridAlong_iff]
  cases d <;> simp only [boundTest] at h <;> simp only [alongX, alongY, unitX, unitY] <;> omega

/-- With the reference margins the bound tests ask for no more than that. -/
theorem boundTest_of_reference {p : Params} {q : Pos} {d : Dir} (hnear : p.nearMargin = 2) (hfar : p.farMargin = 3)
    (h : inGridAlong p q d 2 = true) : boundTest p q d := by
  rw [inGridAlong_iff] at h
  cases d <;> simp only [alongX, alongY, unitX, unitY] at h <;> simp only [boundTest] <;> omega

end Sys2Proof.Machine
end

section
/-! PROOF. Spanning: a finished generation has carved the whole lattice of its start (spec/45_generator.md R188,
R189). -/

namespace Sys2Proof.Machine

/-! ### Dead ends -/

/-- A dead end of R183: every cell two away that passes its bound test is carved. -/
def State.closedAt (s : State) (r : Pos) : Prop := ∀ d, boundTest s.cfg r d → s.gridRead (stepPos r d 2) = true

theorem closedAt_of_maskCount {s : State} {q : Pos} (h : maskCount (s.nbrMask q) = 0) : s.closedAt q := by
  intro d hd
  by_contra hfree
  have hopen := (probeOpen_iff s q d).mpr ⟨hd, Bool.eq_false_iff.mpr hfree⟩
  rw [← maskHas_nbrMask] at hopen
  exact maskCount_pos_of_maskHas hopen h

/-- A dead end stays one while cells are only carved. -/
theorem State.closedAt.mono {s t : State} {r : Pos} (h : s.closedAt r) (hp : s.cfg.legal = true)
    (hr : inGrid s.cfg r = true) (hcfg : t.cfg = s.cfg)
    (hmono : ∀ c, inGrid s.cfg c = true → s.gridRead c = true → t.gridRead c = true) : t.closedAt r := by
  intro d hd
  rw [hcfg] at hd
  exact hmono _ (inGrid_stepPos (inGridAlong_of_boundTest hp hr hd)) (h d hd)

/-! ### The cells of a generation in progress -/

/-- Every carved lattice cell is one the generation still comes back to, or a dead end. `l` is the stack; the start
was pushed twice over, so the last word of the position and the stack stands for no cell to come back to. -/
structure Covered (p : Params) (q₀ : Pos) (s : State) (q : Pos) (l : List Word) : Prop where
  cfg : s.cfg = p
  lattice : ∀ v ∈ packPos q :: l, onLattice q₀ (unpackPos v) = true
  covered : ∀ c, inGrid p c = true → onLattice q₀ c = true → s.gridRead c = true →
    packPos c ∈ (packPos q :: l).dropLast ∨ s.closedAt c

theorem covered_generateStart {s : State} {q : Pos} (hp : s.cfg.legal = true) (hq : inGrid s.cfg q = true) :
    Covered s.cfg q (s.generateStart q) q [packPos q] where
  cfg := rfl
  lattice := by
    simp only [List.mem_cons, List.not_mem_nil, or_false, or_self, forall_eq, unpackPos_packPos_of_inGrid hp hq,
      onLattice_self]
  covered := by
    intro c hc _ hcarved
    rw [gridRead_generateStart s hq hc, decide_eq_true_eq] at hcarved
    exact .inl (by simp [hcarved])

theorem Covered.extend {p : Params} {q₀ q : Pos} {s : State} {l : List Word} {d : Dir} (h : Covered p q₀ s q l)
    (hpath : PathInv s q) (hd : s.probeOpen q d = true) :
    Covered p q₀ (s.extendState q d) (stepPos q d 2) (packPos q :: l) := by
  obtain ⟨rfl, hlat, hcov⟩ := h
  obtain ⟨halong, -, hdest, -⟩ := probeOpen_cells hpath.legal hpath.here hd
  have hq : onLattice q₀ q = true := by
    simpa only [unpackPos_packPos_of_inGrid hpath.legal hpath.here] using hlat (packPos q) List.mem_cons_self
  refine ⟨rfl, fun v hv => ?lattice, fun c hc hcl hcarved => ?covered⟩
  case lattice =>
    obtain rfl | hv := List.mem_cons.mp hv
    · rw [unpackPos_packPos_of_inGrid hpath.legal hdest]
      exact onLattice_stepPos_two halong hq
    · exact hlat v hv
  case covered =>
    rw [List.dropLast_cons_cons, List.mem_cons]
    rw [hpath.gridRead_extend hd hc, Bool.or_eq_true, Bool.or_eq_true, decide_eq_true_eq, decide_eq_true_eq] at hcarved
    obtain (rfl | rfl) | hold := hcarved
    · rw [(onLattice_stepPos_one (inGridAlong_one_of_two hpath.here halong) hq).1] at hcl
      cases hcl
    · exact .inl (.inl rfl)
    · refine (hcov c hc hcl hold).imp .inr fun hclosed => ?_
      exact hclosed.mono hpath.legal hc rfl fun r hr => hpath.carved_extend hd hr

theorem Covered.pop {p : Params} {q₀ q : Pos} {s : State} {v : Word} {l : List Word} (h : Covered p q₀ s q (v :: l))
    (hpath : PathInv s q) (hdead : maskCount (s.nbrMask q) = 0) : Covered p q₀ s.popState (unpackPos v) l := by
  obtain ⟨rfl, hlat, hcov⟩ := h
  rw [List.dropLast_cons_cons] at hcov
  refine ⟨rfl, fun w hw => hlat w ?lattice, fun c hc hcl hcarved => ?covered⟩
  case lattice =>
    rw [packPos_unpackPos] at hw
    exact List.mem_cons_of_mem _ hw
  case covered =>
    rw [packPos_unpackPos]
    obtain hmem | hclosed := hcov c hc hcl hcarved
    · refine (List.mem_cons.mp hmem).symm.imp id fun he => ?_
      have hcq : c = q := by
        rw [← unpackPos_packPos_of_inGrid hpath.legal hc, he, unpackPos_packPos_of_inGrid hpath.legal hpath.here]
      exact hcq ▸ closedAt_of_maskCount hdead
    · exact .inr hclosed

/-- At the end of a finished generation every carved lattice cell is a dead end. -/
theorem closedAt_of_done {s : State} {q : Pos} (hp : s.cfg.legal = true) (hq : inGrid s.cfg q = true)
    (hdone : (s.generateExit q).result = .done) (ho : (s.generateExit q).state.ovf = false) {c : Pos}
    (hc : inGrid s.cfg c = true) (hcl : onLattice q c = true) (hcarved : (s.generateExit q).state.gridRead c = true) :
    (s.generateExit q).state.closedAt c := by
  have hcov : Covered s.cfg q (s.generateExit q).state (s.generateExit q).pos [] :=
    generateExit_done_unbounded (F := Covered s.cfg q) (fun _ _ _ hpath h hd => h.extend hpath hd)
      (fun _ _ _ _ hpath hdead h => h.pop hpath hdead) hp hq (covered_generateStart hp hq) hdone ho
  exact (hcov.covered c hc hcl hcarved).resolve_left (by simp)

/-! ### From the start to every lattice cell -/

/-- Columns plus rows between two cells. -/
def gridDist (q r : Pos) : Nat := Nat.dist q.x r.x + Nat.dist q.y r.y

/-- A lattice cell other than the start is two away from one that is nearer to the start. -/
theorem exists_nearer {p : Params} {q r : Pos} (hq : inGrid p q = true) (hr : inGrid p r = true)
    (hrl : onLattice q r = true) (hne : r ≠ q) : ∃ c d, inGrid p c = true ∧ onLattice q c = true ∧
      inGridAlong p c d 2 = true ∧ stepPos c d 2 = r ∧ gridDist q c < gridDist q r := by
  obtain ⟨qx, qy⟩ := q
  obtain ⟨rx, ry⟩ := r
  simp only [inGrid_iff, onLattice_iff, ne_eq, Pos.mk.injEq] at hq hr hrl hne
  simp only [inGrid_iff, onLattice_iff, inGridAlong_iff, gridDist, Nat.dist]
  obtain hx | hx | hx := Nat.lt_trichotomy rx qx
  · refine ⟨⟨rx + 2, ry⟩, .west, ?_⟩
    simp only [alongX, alongY, unitX, unitY, stepPos_two_west, Pos.mk.injEq, and_true]
    omega
  · obtain hy | hy | hy := Nat.lt_trichotomy ry qy
    · refine ⟨⟨rx, ry + 2⟩, .north, ?_⟩
      simp only [alongX, alongY, unitX, unitY, stepPos_two_north, Pos.mk.injEq, true_and]
      omega
    · exact absurd ⟨hx, hy⟩ hne
    · refine ⟨⟨rx, ry - 2⟩, .south, ?_⟩
      simp only [alongX, alongY, unitX, unitY, stepPos_two_south, Pos.mk.injEq, true_and]
      omega
  · refine ⟨⟨rx - 2, ry⟩, .east, ?_⟩
    simp only [alongX, alongY, unitX, unitY, stepPos_two_east, Pos.mk.injEq, and_true]
    omega

/-- Where the start is carved and carving never stops at a lattice cell, all of the lattice is carved. -/
theorem lattice_carved {p : Params} {g : Pos → Bool} {q : Pos} (hq : inGrid p q = true) (hstart : g q = true)
    (hgo : ∀ c d, inGrid p c = true → onLattice q c = true → g c = true → inGridAlong p c d 2 = true →
      g (stepPos c d 2) = true) {r : Pos} (hr : inGrid p r = true) (hrl : onLattice q r = true) : g r = true := by
  induction hn : gridDist q r using Nat.strong_induction_on generalizing r with
  | _ n ih =>
    by_cases he : r = q
    · exact he ▸ hstart
    · obtain ⟨c, d, hc, hcl, halong, rfl, hlt⟩ := exists_nearer hq hr hrl he
      exact hgo c d hc hcl (ih _ (hn ▸ hlt) hc hcl rfl) halong

/-- Settles O38: at the end every carved lattice cell is a dead end (`closedAt_of_done`), and with the reference
margins a dead end has all its lattice neighbors carved, which reaches the whole lattice from the start. -/
theorem doneGenerationSpansTheLattice : Obligations.DoneGenerationSpansTheLattice := by
  intro s t hp hnear hfar hq hexec hdone ho r hr hrl
  obtain rfl := eq_generate_of_exec_genRun hq hexec
  have hinside := genInside_generateExit hp hq
  refine lattice_carved (g := (s.generateExit s.posOperand).state.gridRead) hq hinside.start ?_ hr hrl
  intro c d hc hcl hcarved halong
  exact closedAt_of_done hp hq hdone ho hc hcl hcarved d
    (hinside.frame.cfg.symm ▸ boundTest_of_reference hnear hfar halong)

end Sys2Proof.Machine
end

section
/-! SUPPORT. The carved cells of a generation as a maze on the lattice of its start (spec/45_generator.md R189): what
a carve step adds to it. Everything here is about the set of carved cells alone. -/

namespace Sys2Proof.Machine

/-! ### Counting cells -/

theorem countCells_congr {c : Params} {g g' : Pos → Bool} (h : ∀ r, inGrid c r = true → g r = g' r) :
    countCells c g = countCells c g' := by
  unfold countCells
  congr 1
  refine Finset.filter_congr fun z hz => ?_
  rw [Finset.mem_product, Finset.mem_range, Finset.mem_range] at hz
  rw [h ⟨z.1, z.2⟩ ((inGrid_iff _ _).mpr hz)]

theorem countCells_none (c : Params) {g : Pos → Bool} (h : ∀ r, inGrid c r = true → g r = false) :
    countCells c g = 0 := by
  rw [countCells_congr h, countCells]
  simp

/-- One cell more. -/
theorem countCells_insert {c : Params} {g g' : Pos → Bool} {q : Pos} (hq : inGrid c q = true) (hfree : g q = false)
    (h : ∀ r, inGrid c r = true → g' r = (decide (r = q) || g r)) : countCells c g' = countCells c g + 1 := by
  rw [countCells_congr h]
  unfold countCells
  have hmem : (q.x, q.y) ∈ Finset.range c.w ×ˢ Finset.range c.h := by
    rwa [Finset.mem_product, Finset.mem_range, Finset.mem_range, ← inGrid_iff]
  rw [← Finset.card_insert_of_notMem (a := (q.x, q.y)) (by simp [hfree])]
  congr 1
  ext ⟨x, y⟩
  have hz : (⟨x, y⟩ : Pos) = q ↔ (x, y) = (q.x, q.y) := by
    rw [Prod.mk.injEq, ← Pos.mk.injEq]
  rw [Finset.mem_filter, Finset.mem_insert, Finset.mem_filter, Bool.or_eq_true, decide_eq_true_eq, hz, and_or_left,
    and_iff_right_of_imp (fun he => he ▸ hmem)]

/-! ### Edges -/

theorem mazeEdge.mono {p : Params} {g g' : Pos → Bool} (hmono : ∀ r, inGrid p r = true → g r = true → g' r = true)
    {q r : Pos} (h : mazeEdge p g q r) : mazeEdge p g' q r := by
  obtain ⟨d, hq, halong, rfl, hgq, hmid, hdest⟩ := h
  exact ⟨d, hq, halong, rfl, hmono _ hq hgq, hmono _ (inGrid_stepPos (inGridAlong_one_of_two hq halong)) hmid,
    hmono _ (inGrid_stepPos halong) hdest⟩

/-- Two unit vectors of one parity are equal or opposite (R14). -/
theorem unit_eq_or_neg {d d' : Dir} (h : unitX d % 2 = unitX d' % 2) :
    (unitX d' = unitX d ∧ unitY d' = unitY d) ∨ (unitX d' = -unitX d ∧ unitY d' = -unitY d) := by
  revert h
  cases d <;> cases d' <;> decide

/-- A cell between two lattice cells is between no others: whichever two are named, the far end of one step is an end
of the other. -/
theorem stepPos_two_of_mid_eq {p : Params} {q₀ q q' : Pos} {d d' : Dir} (hq : inGrid p q = true)
    (hq' : inGrid p q' = true) (h : inGridAlong p q d 2 = true) (h' : inGridAlong p q' d' 2 = true)
    (hl : onLattice q₀ q = true) (hl' : onLattice q₀ q' = true) (hmid : stepPos q d 1 = stepPos q' d' 1) :
    stepPos q d 2 = q' ∨ stepPos q d 2 = stepPos q' d' 2 := by
  rw [onLattice_iff] at hl hl'
  obtain ⟨hx1, hy1⟩ := coords_stepPos (inGridAlong_one_of_two hq h)
  obtain ⟨hx1', hy1'⟩ := coords_stepPos (inGridAlong_one_of_two hq' h')
  obtain ⟨hx2, hy2⟩ := coords_stepPos h
  obtain ⟨hx2', hy2'⟩ := coords_stepPos h'
  rw [hmid] at hx1 hy1
  push_cast at hx1 hy1 hx1' hy1' hx2 hy2 hx2' hy2'
  have heq : ∀ a b : Pos, (a.x : Int) = b.x → (a.y : Int) = b.y → a = b := by
    rintro ⟨_, _⟩ ⟨_, _⟩ hx hy
    simpa using And.intro hx hy
  obtain ⟨hdx, hdy⟩ | ⟨hdx, hdy⟩ := unit_eq_or_neg (d := d) (d' := d') (by omega)
  · exact .inr (heq _ _ (by omega) (by omega))
  · exact .inl (heq _ _ (by omega) (by omega))

/-! ### The maze -/

/-- The carved cells `g` are a maze on the lattice of the start (R189): every carved cell off the lattice joins two
carved lattice cells, every carved lattice cell is joined to the start, and there is one cell off the lattice for each
cell on it but the start. -/
structure Maze (p : Params) (q₀ : Pos) (g : Pos → Bool) : Prop where
  between : ∀ r, inGrid p r = true → g r = true → onLattice q₀ r = false →
    ∃ q d, onLattice q₀ q = true ∧ inGrid p q = true ∧ inGridAlong p q d 2 = true ∧ r = stepPos q d 1 ∧
      g q = true ∧ g (stepPos q d 2) = true
  joined : ∀ r, inGrid p r = true → g r = true → onLattice q₀ r = true → Relation.ReflTransGen (mazeEdge p g) q₀ r
  count : countCells p g + 1 = 2 * countCells p (fun r => onLattice q₀ r && g r)

/-- The start alone is a maze. -/
theorem maze_start {p : Params} {q₀ : Pos} {g : Pos → Bool} (hq₀ : inGrid p q₀ = true)
    (hg : ∀ r, inGrid p r = true → g r = decide (r = q₀)) : Maze p q₀ g := by
  have heq : ∀ r, inGrid p r = true → g r = true → r = q₀ := fun r hr h => of_decide_eq_true ((hg r hr).symm.trans h)
  refine ⟨fun r hr h hoff => ?between, fun r hr h _ => ?joined, ?count⟩
  case between =>
    rw [heq r hr h, onLattice_self] at hoff
    cases hoff
  case joined =>
    rw [heq r hr h]
  case count =>
    have hon : ∀ r, inGrid p r = true → (onLattice q₀ r && g r) = (decide (r = q₀) || false) := by
      intro r hr
      rw [hg r hr, Bool.or_false]
      by_cases he : r = q₀
      · rw [he, onLattice_self, Bool.true_and]
      · rw [decide_eq_false he, Bool.and_false]
    have hnone : countCells p (fun _ => false) = 0 := countCells_none p fun _ _ => rfl
    rw [countCells_insert (g := fun _ => false) hq₀ rfl (by simpa using hg), countCells_insert hq₀ rfl hon, hnone]

/-- The cell between a lattice cell and an uncarved one is uncarved: it would join the uncarved one too. -/
theorem Maze.mid_free {p : Params} {q₀ q : Pos} {g : Pos → Bool} {d : Dir} (h : Maze p q₀ g) (hq : inGrid p q = true)
    (hl : onLattice q₀ q = true) (halong : inGridAlong p q d 2 = true) (hfree : g (stepPos q d 2) = false) :
    g (stepPos q d 1) = false := by
  by_contra hmid
  rw [Bool.not_eq_false] at hmid
  have halong1 := inGridAlong_one_of_two hq halong
  obtain ⟨q', d', hl', hq', halong', heq, hend, hend'⟩ :=
    h.between _ (inGrid_stepPos halong1) hmid (onLattice_stepPos_one halong1 hl).1
  obtain hdest | hdest := stepPos_two_of_mid_eq hq hq' halong halong' hl hl' heq
  · rw [hdest, hend] at hfree
    cases hfree
  · rw [hdest, hend'] at hfree
    cases hfree

/-- A carve step from a carved lattice cell to an uncarved one adds one edge and one lattice cell to the maze. -/
theorem Maze.extend {p : Params} {q₀ q : Pos} {g g' : Pos → Bool} {d : Dir} (h : Maze p q₀ g)
    (hq : inGrid p q = true) (hl : onLattice q₀ q = true) (hcarved : g q = true)
    (halong : inGridAlong p q d 2 = true) (hfree : g (stepPos q d 2) = false)
    (hg : ∀ r, inGrid p r = true → g' r = (decide (r = stepPos q d 1) || decide (r = stepPos q d 2) || g r)) :
    Maze p q₀ g' := by
  have halong1 := inGridAlong_one_of_two hq halong
  have hdest := inGrid_stepPos halong
  have hmid := inGrid_stepPos halong1
  have hldest := onLattice_stepPos_two halong hl
  have hlmid := (onLattice_stepPos_one halong1 hl).1
  have hmono : ∀ r, inGrid p r = true → g r = true → g' r = true := fun r hr h => by rw [hg r hr, h, Bool.or_true]
  have hgdest : g' (stepPos q d 2) = true := by rw [hg _ hdest, decide_eq_true rfl, Bool.or_true, Bool.true_or]
  have hgmid : g' (stepPos q d 1) = true := by rw [hg _ hmid, decide_eq_true rfl, Bool.true_or, Bool.true_or]
  have hnew : ∀ r, inGrid p r = true → g' r = true → (r = stepPos q d 1 ∨ r = stepPos q d 2) ∨ g r = true := by
    intro r hr h
    rwa [hg r hr, Bool.or_eq_true, Bool.or_eq_true, decide_eq_true_eq, decide_eq_true_eq] at h
  refine ⟨fun r hr hgr hoff => ?between, fun r hr hgr hon => ?joined, ?count⟩
  case between =>
    obtain (rfl | rfl) | hold := hnew r hr hgr
    · exact ⟨q, d, hl, hq, halong, rfl, hmono q hq hcarved, hgdest⟩
    · rw [hldest] at hoff
      cases hoff
    · obtain ⟨q', d', hl', hq', halong', heq, hend, hend'⟩ := h.between r hr hold hoff
      exact ⟨q', d', hl', hq', halong', heq, hmono _ hq' hend, hmono _ (inGrid_stepPos halong') hend'⟩
  case joined =>
    have hlift : ∀ c, Relation.ReflTransGen (mazeEdge p g) q₀ c → Relation.ReflTransGen (mazeEdge p g') q₀ c :=
      fun c => Relation.ReflTransGen.mono (show mazeEdge p g ≤ mazeEdge p g' from fun _ _ => mazeEdge.mono hmono) q₀ c
    obtain (rfl | rfl) | hold := hnew r hr hgr
    · rw [hlmid] at hon
      cases hon
    · exact (hlift q (h.joined q hq hcarved hl)).tail ⟨d, hq, halong, rfl, hmono q hq hcarved, hgmid, hgdest⟩
    · exact hlift r (h.joined r hr hold hon)
  case count =>
    have hne : stepPos q d 1 ≠ stepPos q d 2 := stepPos_ne halong
    have hfree1 := h.mid_free hq hl halong hfree
    have hcells : countCells p g' = countCells p g + 1 + 1 := by
      rw [← countCells_insert (g' := fun r => decide (r = stepPos q d 2) || g r) hdest hfree fun _ _ => rfl]
      refine countCells_insert hmid ?_ fun r hr => (hg r hr).trans (Bool.or_assoc ..)
      rw [decide_eq_false hne, hfree1, Bool.false_or]
    have hlattice : countCells p (fun r => onLattice q₀ r && g' r) =
        countCells p (fun r => onLattice q₀ r && g r) + 1 := by
      refine countCells_insert hdest (by rw [hfree, Bool.and_false]) fun r hr => ?_
      by_cases h1 : r = stepPos q d 1
      · rw [h1, hlmid, decide_eq_false hne, Bool.false_and, Bool.false_and, Bool.false_or]
      · by_cases h2 : r = stepPos q d 2
        · rw [h2, hldest, hgdest, decide_eq_true rfl, Bool.true_and, Bool.true_or]
        · rw [hg r hr, decide_eq_false h1, decide_eq_false h2, Bool.false_or, Bool.false_or, Bool.false_or]
    have hcount := h.count
    omega

end Sys2Proof.Machine
end

section
/-! PROOF. The carved cells of every generation, finished or aborted, are a maze on the lattice of its start
(spec/45_generator.md R189). -/

namespace Sys2Proof.Machine

/-- The stack of a generation after an inner iteration: what holds of the position left behind and of every word a pop
could reach holds of every word a pop can reach now. -/
theorem PathInv.live_extend {s : State} {q : Pos} {R : Pos → Prop} (h : PathInv s q) {d : Dir}
    (hd : s.probeOpen q d = true) (hq : R q) (hlive : ∀ i, i < s.cnt.toNat → R (unpackPos (s.slot (i % s.cfg.cap)))) :
    ∀ i, i < (s.extendState q d).cnt.toNat →
      R (unpackPos ((s.extendState q d).slot (i % (s.extendState q d).cfg.cap))) := by
  obtain ⟨-, hcnt, -⟩ := h.extend hd
  intro i hi
  rw [hcnt] at hi
  rw [extendState_cfg, extendState_slot]
  by_cases he : i % s.cfg.cap = s.idx
  · rwa [he, slot_stkPush_same, unpackPos_packPos_of_inGrid h.legal h.here]
  · rw [slot_stkPush_ne s _ he]
    have hne : i ≠ s.cnt.toNat := fun e => he (by rw [e, h.ring])
    exact hlive i (by omega)

/-- A carved lattice cell of the grid. -/
def carvedLattice (q₀ : Pos) (s : State) (r : Pos) : Prop :=
  inGrid s.cfg r = true ∧ onLattice q₀ r = true ∧ s.gridRead r = true

/-- A generation in progress: its cells are a maze, and its position and every position a pop can reach are carved
lattice cells of that maze. -/
structure Carving (p : Params) (q₀ : Pos) (s : State) (q : Pos) : Prop where
  cfg : s.cfg = p
  maze : Maze p q₀ s.gridRead
  here : carvedLattice q₀ s q
  live : ∀ i, i < s.cnt.toNat → carvedLattice q₀ s (unpackPos (s.slot (i % s.cfg.cap)))

theorem carving_generateStart {s : State} {q : Pos} (hp : s.cfg.legal = true) (hq : inGrid s.cfg q = true) :
    Carving s.cfg q (s.generateStart q) q := by
  have hstart : carvedLattice q (s.generateStart q) q :=
    ⟨hq, onLattice_self q, by rw [gridRead_generateStart s hq hq, decide_eq_true rfl]⟩
  refine ⟨rfl, maze_start hq fun r hr => gridRead_generateStart s hq hr, hstart, fun i hi => ?_⟩
  obtain rfl : i = 0 := Nat.lt_one_iff.mp hi
  have hslot : (s.generateStart q).slot (0 % (s.generateStart q).cfg.cap) = packPos q := by
    rw [Nat.zero_mod]
    exact slot_stkPush_same (s.gridClear.stkReset.gridWrite q true) (packPos q)
  rwa [hslot, unpackPos_packPos_of_inGrid hp hq]

theorem Carving.extend {p : Params} {q₀ q : Pos} {s : State} {d : Dir} (h : Carving p q₀ s q) (hpath : PathInv s q)
    (hd : s.probeOpen q d = true) : Carving p q₀ (s.extendState q d) (stepPos q d 2) := by
  obtain ⟨rfl, hmaze, ⟨hq, hl, hcarved⟩, hlive⟩ := h
  obtain ⟨halong, -, hdest, hfree⟩ := probeOpen_cells hpath.legal hq hd
  have hmono : ∀ r, carvedLattice q₀ s r → carvedLattice q₀ (s.extendState q d) r :=
    fun r ⟨hr, hrl, hc⟩ => ⟨hr, hrl, hpath.carved_extend hd hr hc⟩
  refine ⟨rfl, hmaze.extend hq hl hcarved halong hfree fun r hr => hpath.gridRead_extend hd hr,
    ⟨hdest, onLattice_stepPos_two halong hl, ?_⟩,
    hpath.live_extend hd (hmono q ⟨hq, hl, hcarved⟩) fun i hi => hmono _ (hlive i hi)⟩
  rw [hpath.gridRead_extend hd hdest, decide_eq_true rfl, Bool.or_true, Bool.true_or]

theorem Carving.pop {p : Params} {q₀ q : Pos} {s : State} (h : Carving p q₀ s q) (hpath : PathInv s q)
    (hc : s.cnt ≠ 0) : Carving p q₀ s.popState (unpackPos s.popValue) := by
  obtain ⟨rfl, hmaze, -, hlive⟩ := h
  have hpos := toNat_pos_of_ne hc
  refine ⟨rfl, hmaze, ?_, fun i hi => hlive i ?_⟩
  · rw [State.popValue, hpath.popIdx hc]
    exact hlive _ (by omega)
  · rw [State.popState_cnt, toNat_pred_of_ne hc] at hi
    omega

/-- The carved cells a generation leaves are a maze on the lattice of its start. -/
theorem maze_generate {s : State} {q : Pos} (hp : s.cfg.legal = true) (hq : inGrid s.cfg q = true) :
    Maze s.cfg q (s.generate q).gridRead :=
  (generateExit_induct (Carving s.cfg q) (fun _ _ hpath _ h hd => h.extend hpath hd)
    (fun _ _ hpath hc h => h.pop hpath hc) s q hp hq (carving_generateStart hp hq)).maze

/-- Settles O39: an edge of the maze shares one of the start's parities, and the count is the maze's. -/
theorem carvedCellsAreLatticeCellsAndOneEdgeEach : Obligations.CarvedCellsAreLatticeCellsAndOneEdgeEach := by
  intro s t hp hq hexec
  obtain rfl := eq_generate_of_exec_genRun hq hexec
  have hmaze : Maze s.cfg s.posOperand (s.generate s.posOperand).gridRead := maze_generate hp hq
  refine ⟨fun r hr hc => ?parity, hmaze.count⟩
  by_cases hl : onLattice s.posOperand r = true
  · exact .inl ((onLattice_iff _ _).mp hl).1
  · obtain ⟨q, d, hql, hqin, halong, rfl, -, -⟩ := hmaze.between r hr hc (Bool.eq_false_iff.mpr hl)
    exact (onLattice_stepPos_one (inGridAlong_one_of_two hqin halong) hql).2

/-- Settles O60: the two clauses are those of `Maze`, with the cell between as the edge's third carved cell. -/
theorem carvedCellsHangTogetherFromTheStart : Obligations.CarvedCellsHangTogetherFromTheStart := by
  intro s t hp hq hexec
  obtain rfl := eq_generate_of_exec_genRun hq hexec
  have hmaze : Maze s.cfg s.posOperand (s.generate s.posOperand).gridRead := maze_generate hp hq
  refine ⟨fun r hr hc hoff => ?between, hmaze.joined⟩
  obtain ⟨q, d, hql, hqin, halong, rfl, hend, hend'⟩ := hmaze.between r hr hc hoff
  exact ⟨q, d, hql, rfl, d, hqin, halong, rfl, hend, hc, hend'⟩

end Sys2Proof.Machine
end

section
/-! PROOF. What a generation depends on: the start, the seed and the parameters (spec/45_generator.md R189). -/

namespace Sys2Proof.Machine

/-- Two generations at the same point: they agree in the grid, the seed, the stack's registers and every slot a pop
can reach. -/
structure SameRun (s s' : State) : Prop where
  cfg : s.cfg = s'.cfg
  grid : s.grid = s'.grid
  idx : s.idx = s'.idx
  cnt : s.cnt = s'.cnt
  ovf : s.ovf = s'.ovf
  seed : s.seed = s'.seed
  live : ∀ i, i < s.cnt.toNat → s.slot (i % s.cfg.cap) = s'.slot (i % s.cfg.cap)

theorem SameRun.gridRead {s s' : State} (h : SameRun s s') : s.gridRead = s'.gridRead := by
  funext r
  rw [State.gridRead, State.gridRead, State.gridWord, State.gridWord, h.grid, h.cfg]

theorem SameRun.nbrMask {s s' : State} (h : SameRun s s') (q : Pos) : s.nbrMask q = s'.nbrMask q := by
  have hprobe : ∀ d, s.probeOpen q d = s'.probeOpen q d := fun d => by
    rw [Bool.eq_iff_iff, probeOpen_iff, probeOpen_iff, h.cfg, h.gridRead]
  simp only [State.nbrMask, hprobe]

theorem SameRun.extendDir {s s' : State} (h : SameRun s s') (m : BitVec 4) : s.extendDir m = s'.extendDir m := by
  rw [State.extendDir, State.extendDir, State.drawValue, State.drawValue, h.seed]

theorem SameRun.ovfAbort {s s' : State} (h : SameRun s s') : s.ovfAbort = s'.ovfAbort := by
  rw [State.ovfAbort, State.ovfAbort, h.cfg, h.ovf, h.cnt]

theorem gridWrite_grid_congr {s s' : State} (hcfg : s.cfg = s'.cfg) (hgrid : s.grid = s'.grid) (q : Pos) (b : Bool) :
    (s.gridWrite q b).grid = (s'.gridWrite q b).grid := by
  simp only [State.gridWrite, State.setGridWord_grid, State.gridWord, hcfg, hgrid]

theorem extendState_grid (s : State) (q : Pos) (d : Dir) :
    (s.extendState q d).grid = ((s.gridWrite (stepPos q d 1) true).gridWrite (stepPos q d 2) true).grid := rfl

theorem extendState_ovf (s : State) (q : Pos) (d : Dir) :
    (s.extendState q d).ovf = ovfAfterPush s.cfg.cap (s.cnt + 1) s.ovf := rfl

theorem extendState_seed (s : State) (q : Pos) (d : Dir) : (s.extendState q d).seed = s.drawState.seed := rfl

theorem SameRun.extend {s s' : State} {q : Pos} {d : Dir} (h : SameRun s s') (hpath : PathInv s q)
    (hd : s.probeOpen q d = true) : SameRun (s.extendState q d) (s'.extendState q d) where
  cfg := h.cfg
  grid := by
    have hmid := gridWrite_grid_congr h.cfg h.grid (stepPos q d 1) true
    have hcfg : (s.gridWrite (stepPos q d 1) true).cfg = (s'.gridWrite (stepPos q d 1) true).cfg := h.cfg
    rw [extendState_grid, extendState_grid, gridWrite_grid_congr hcfg hmid]
  idx := by rw [extendState_idx, extendState_idx, h.idx, h.cfg]
  cnt := by rw [extendState_cnt, extendState_cnt, h.cnt]
  ovf := by rw [extendState_ovf, extendState_ovf, h.cfg, h.cnt, h.ovf]
  seed := by rw [extendState_seed, extendState_seed, drawState_seed, drawState_seed, h.seed, h.cfg]
  live := by
    obtain ⟨-, hcnt, -⟩ := hpath.extend hd
    intro i hi
    rw [hcnt] at hi
    rw [extendState_cfg, extendState_slot, extendState_slot]
    by_cases he : i % s.cfg.cap = s.idx
    · rw [he, slot_stkPush_same, h.idx, slot_stkPush_same]
    · have hne : i ≠ s.cnt.toNat := fun e => he (by rw [e, hpath.ring])
      rw [slot_stkPush_ne s _ he, slot_stkPush_ne s' _ (h.idx ▸ he), h.live i (by omega)]

theorem SameRun.pop {s s' : State} {q : Pos} (h : SameRun s s') (hpath : PathInv s q) (hc : s.cnt ≠ 0) :
    SameRun s.popState s'.popState ∧ s.popValue = s'.popValue := by
  have hpos := toNat_pos_of_ne hc
  have hidx : s.popIdx = s'.popIdx := by rw [State.popIdx, State.popIdx, h.idx, h.cfg]
  refine ⟨⟨h.cfg, h.grid, hidx, congrArg (· - 1) h.cnt, h.ovf, h.seed, fun i hi => h.live i ?_⟩, ?_⟩
  · rw [State.popState_cnt, toNat_pred_of_ne hc] at hi
    omega
  · rw [State.popValue, State.popValue, ← hidx, hpath.popIdx hc, h.live _ (by omega)]

theorem SameRun.extendLoop {s s' : State} {q : Pos} (n : Nat) (h : SameRun s s') (hpath : PathInv s q) :
    SameRun (extendLoop n s q).1 (extendLoop n s' q).1 ∧ (extendLoop n s q).2 = (extendLoop n s' q).2 := by
  induction n generalizing s s' q with
  | zero => exact ⟨h, rfl⟩
  | succ n ih =>
    by_cases hm : maskCount (s.nbrMask q) = 0
    · rw [extendLoop_of_closed _ hm, extendLoop_of_closed _ (h.nbrMask q ▸ hm)]
      exact ⟨h, rfl⟩
    · have hd := probeOpen_extendDir hm
      rw [extendLoop_succ_of_open n hm, extendLoop_succ_of_open n (h.nbrMask q ▸ hm), ← h.nbrMask, ← h.extendDir]
      exact ih (h.extend hpath hd) (hpath.extend hd).1

theorem SameRun.generateLoop {s s' : State} {q : Pos} {inner : Nat} (n : Nat) (h : SameRun s s') (hpath : PathInv s q)
    (hin : s.uncarved ≤ inner) :
    SameRun (generateLoop inner n s q).state (generateLoop inner n s' q).state ∧
      (generateLoop inner n s q).pos = (generateLoop inner n s' q).pos ∧
      (generateLoop inner n s q).result = (generateLoop inner n s' q).result := by
  induction n generalizing s s' q with
  | zero => exact ⟨h, rfl, rfl⟩
  | succ n ih =>
    by_cases hc : s.cnt = 0
    · rw [generateLoop_of_empty inner n q hc, generateLoop_of_empty inner n q (h.cnt ▸ hc)]
      exact ⟨h, rfl, rfl⟩
    · by_cases ha : s.ovfAbort = true
      · rw [generateLoop_of_abort inner n q hc ha, generateLoop_of_abort inner n q (h.cnt ▸ hc) (h.ovfAbort ▸ ha)]
        exact ⟨h, rfl, rfl⟩
      · obtain ⟨hend, -⟩ := extendLoop_spec inner s q hpath hin
        obtain ⟨hnext, hu, -⟩ := hpath.outer hc hin
        obtain ⟨hpop, hval⟩ := (h.extendLoop inner hpath).1.pop hend (hpath.extendLoop_cnt_ne hc hin)
        rw [generateLoop_of_goes_on inner n q hc ha,
          generateLoop_of_goes_on inner n q (h.cnt ▸ hc) (h.ovfAbort ▸ ha), ← hval]
        exact ih hpop hnext (hu.trans hin)

/-- The start makes the two states agree: it clears the grid and the stack and writes the one slot a pop can reach. -/
theorem sameRun_generateStart {s s' : State} (hcfg : s.cfg = s'.cfg) (hseed : s.seed = s'.seed) (q : Pos) :
    SameRun (s.generateStart q) (s'.generateStart q) where
  cfg := hcfg
  grid := gridWrite_grid_congr (s := s.gridClear.stkReset) (s' := s'.gridClear.stkReset) hcfg rfl q true
  idx := congrArg (fun p : Params => (0 + 1) % p.cap) hcfg
  cnt := rfl
  ovf := congrArg (fun p : Params => ovfAfterPush p.cap (0 + 1) false) hcfg
  seed := hseed
  live := by
    intro i hi
    obtain rfl : i = 0 := Nat.lt_one_iff.mp hi
    rw [Nat.zero_mod]
    exact (slot_stkPush_same (s.gridClear.stkReset.gridWrite q true) (packPos q)).trans
      (slot_stkPush_same (s'.gridClear.stkReset.gridWrite q true) (packPos q)).symm

theorem sameRun_generateExit {s s' : State} {q : Pos} (hp : s.cfg.legal = true) (hq : inGrid s.cfg q = true)
    (hcfg : s.cfg = s'.cfg) (hseed : s.seed = s'.seed) :
    SameRun (s.generateExit q).state (s'.generateExit q).state ∧ (s.generateExit q).pos = (s'.generateExit q).pos ∧
      (s.generateExit q).result = (s'.generateExit q).result := by
  obtain ⟨hpath, -, hroom⟩ := generateStart_pathInv s q hp hq
  rw [State.generateExit, State.generateExit, ← hcfg]
  exact (sameRun_generateStart hcfg hseed q).generateLoop _ hpath (by omega)

/-- Settles O37: the two generations start at the same point and stay so (`SameRun`) to the end. -/
theorem generationIsDeterministic : Obligations.GenerationIsDeterministic := by
  intro s s' hp hcfg hseed hop hq
  have hpos : s'.posOperand = s.posOperand := congrArg unpackPos hop.symm
  obtain ⟨hsame, hend, hres⟩ := sameRun_generateExit hp hq hcfg hseed
  refine ⟨_, _, exec_genRun_of_inGrid hq, exec_genRun_of_inGrid (s := s') (by rw [hpos, ← hcfg]; exact hq), ?_⟩
  rw [hpos]
  exact ⟨hsame.grid, hsame.idx, hsame.cnt, hsame.ovf, hsame.seed, congrArg packPos hend, hres, congrArg genErr hres⟩

end Sys2Proof.Machine
end

section
/-! PROOF. GEN_RUN out of range, and GEN_CENTER as GEN_RUN from the centre cell (spec/45_generator.md R182, R186). -/

namespace Sys2Proof.Machine

/-! ### A generation does not look at INFL -/

/-- INFL <- i (R30). -/
def State.setInfl (s : State) (i : InFlight) : State := { s with infl := i }

theorem extendLoop_setInfl (n : Nat) (s : State) (q : Pos) (i : InFlight) :
    extendLoop n (s.setInfl i) q = ((extendLoop n s q).1.setInfl i, (extendLoop n s q).2) := by
  induction n generalizing s q with
  | zero => rfl
  | succ n ih =>
    by_cases hm : maskCount (s.nbrMask q) = 0
    · rw [extendLoop_of_closed _ hm, extendLoop_of_closed (s := s.setInfl i) _ hm]
    · rw [extendLoop_succ_of_open n hm, extendLoop_succ_of_open (s := s.setInfl i) n hm]
      exact ih (s.extendState q (s.extendDir (s.nbrMask q))) (stepPos q (s.extendDir (s.nbrMask q)) 2)

theorem generateLoop_setInfl (inner n : Nat) (s : State) (q : Pos) (i : InFlight) :
    generateLoop inner n (s.setInfl i) q =
      ⟨(generateLoop inner n s q).state.setInfl i, (generateLoop inner n s q).pos,
        (generateLoop inner n s q).result⟩ := by
  induction n generalizing s q with
  | zero => rfl
  | succ n ih =>
    by_cases hc : s.cnt = 0
    · rw [generateLoop_of_empty inner n q hc, generateLoop_of_empty (s := s.setInfl i) inner n q hc]
    · by_cases ha : s.ovfAbort = true
      · rw [generateLoop_of_abort inner n q hc ha, generateLoop_of_abort (s := s.setInfl i) inner n q hc ha]
      · rw [generateLoop_of_goes_on inner n q hc ha, generateLoop_of_goes_on (s := s.setInfl i) inner n q hc ha,
          extendLoop_setInfl]
        exact ih (extendLoop inner s q).1.popState (unpackPos (extendLoop inner s q).1.popValue)

/-- The command in flight leaves no trace in what a generation answers: its completion clears INFL (R244). -/
theorem generate_setInfl (s : State) (q : Pos) (i : InFlight) : (s.setInfl i).generate q = s.generate q := by
  have hexit : (s.setInfl i).generateExit q =
      ⟨(s.generateExit q).state.setInfl i, (s.generateExit q).pos, (s.generateExit q).result⟩ :=
    generateLoop_setInfl _ _ (s.generateStart q) q i
  rw [State.generate, hexit]
  rfl

/-- Settles O33: the operand of the GEN_RUN is the centre cell packed, which a legal build unpacks, and
`generate_setInfl` makes the two generations one. -/
theorem genRunRangeAndGenCenter : Obligations.GenRunRangeAndGenCenter := by
  refine ⟨decode_encode .genRun, decode_encode .genCenter, fun s hout => ?range, fun s c hp => ?centre⟩
  case range =>
    rw [exec_genRun_of_not_inGrid ((not_inGrid_iff _ _).mpr hout), State.raiseError_eq, State.complete]
  case centre =>
    have hin := inGrid_centerPos hp
    have hpos : (s.setInfl (.command c (packPos (centerPos s.cfg)))).posOperand = centerPos s.cfg :=
      unpackPos_packPos_of_inGrid hp hin
    refine ⟨_, exec_genCenter s, ?sameRun, ?noRange⟩
    case sameRun =>
      have hrun : exec .genRun (s.setInfl (.command c (packPos (centerPos s.cfg)))) = _ :=
        exec_genRun_of_inGrid (by rw [hpos]; exact hin)
      rw [hpos, generate_setInfl] at hrun
      exact hrun
    case noRange =>
      obtain h | h := generate_err s (centerPos s.cfg) <;> rw [h] <;> decide

end Sys2Proof.Machine
end

section
/-! PROOF. The index clamp and the chosen direction (spec/43_neighbor_carve.md R141, R142). -/

namespace Sys2Proof.Machine

/-- The quotient of a draw by the divisor of R141: draws stop at 0xFFFFFFFB, and for no count of 1 to 4 does the
divisor's remainder reach below that. -/
theorem drawValue_div_le (s : State) {cnt : Nat} (h1 : 1 ≤ cnt) (h4 : cnt ≤ 4) :
    s.drawValue.toNat / chooseDivisor cnt ≤ cnt - 1 := by
  have hdraw := toNat_drawValue_le s
  obtain rfl | rfl | rfl | rfl : cnt = 1 ∨ cnt = 2 ∨ cnt = 3 ∨ cnt = 4 := by omega
  all_goals simp only [chooseDivisor]; omega

/-- Settles O26: the minimum of R141 is its first argument (`drawValue_div_le`), and a chosen direction is a set bit
of the mask. -/
theorem indexClampNeverBindsForDraws : Obligations.IndexClampNeverBindsForDraws := by
  refine ⟨fun s cnt h1 h4 => ?clamp, fun s q r hm => ?chosen⟩
  case clamp => exact ⟨drawValue_div_le s h1 h4, Nat.min_eq_left (drawValue_div_le s h1 h4)⟩
  case chosen =>
    rw [← maskHas_nbrMask]
    exact maskHas_chooseDir ((maskCount_eq_zero_iff _).not.mpr hm) r

end Sys2Proof.Machine
end

section
/-! SUPPORT. What a step does to the elements that commands and resets alone write (spec/20_memory.md R63): nothing, a
reset, or the completion of one command. Each statement about all steps takes these three cases apart. -/

namespace Sys2Proof.Machine

/-- The grid, the stack, SEED, CUR and STATE_R, with the build and the number of resets. -/
def State.results (s : State) : Memory × Memory × Nat × Word × Bool × Word × Word × GenState × Params × Nat :=
  (s.grid, s.slots, s.idx, s.cnt, s.ovf, s.seed, s.cur, s.stateR, s.cfg, s.epoch)

theorem State.results_eq_iff (s t : State) : t.results = s.results ↔
    t.grid = s.grid ∧ t.slots = s.slots ∧ t.idx = s.idx ∧ t.cnt = s.cnt ∧ t.ovf = s.ovf ∧ t.seed = s.seed ∧
      t.cur = s.cur ∧ t.stateR = s.stateR ∧ t.cfg = s.cfg ∧ t.epoch = s.epoch := by
  simp only [State.results, Prod.mk.injEq]

theorem hostAccess_results (s : State) (a : Access) : (s.hostAccess a).results = s.results := by
  rw [hostAccess_touches]
  rfl

/-- A SEQ step, by itself or stored, of a machine with nothing in flight, the post-reset clear, a word that is no
command, or a command (R241, R244). -/
theorem seqStep_results {s t : State} (h : seqStep s = .next t) : t.results = s.results ∨
    ∃ c a i, s.infl = .command c a ∧ decode c = .ok i ∧ exec i s = .next t := by
  obtain ⟨-, rfl⟩ | ⟨-, rfl⟩ | ⟨c, a, hinfl, ⟨e, -, rfl⟩ | ⟨i, hi, hexec⟩⟩ := seqStep_next h
  · exact .inl rfl
  · exact .inl rfl
  · exact .inl rfl
  · exact .inr ⟨c, a, i, hinfl, hi, hexec⟩

/-- What a step does to the results: nothing, the reset, or the completion of a command, in a state with the same
results. -/
theorem step_results {s t : State} (h : step s = .next t) : t.results = s.results ∨
    (s.resetNext ∧ ∃ u : State, u.results = s.results ∧ t = u.hardReset) ∨
    ∃ (i : Instr) (u : State), s.completing [i] ∧ u.results = s.results ∧ exec i u = .next t := by
  obtain ⟨-, h⟩ := step_next h
  obtain ⟨hnil, h⟩ | ⟨a, rest, -, rfl⟩ | ⟨rest, hseq, h⟩ | ⟨rest, hreset, rfl⟩ := nextStep_next h
  · refine (seqStep_results h).imp id fun ⟨c, a, i, hinfl, hi, hexec⟩ => .inr ⟨i, s, ?_, rfl, hexec⟩
    exact ⟨.inl hnil, c, a, i, hinfl, hi, List.mem_singleton_self i⟩
  · exact .inl (hostAccess_results _ a)
  · refine (seqStep_results h).imp id fun ⟨c, a, i, hinfl, hi, hexec⟩ => .inr
      ⟨i, { s with pending := rest }, ?_, rfl, hexec⟩
    exact ⟨.inr ⟨rest, hseq⟩, c, a, i, hinfl, hi, List.mem_singleton_self i⟩
  · exact .inr (.inl ⟨⟨rest, hreset⟩, { s with pending := rest }, rfl, rfl⟩)

/-- An invariant of the results is kept by every step if a reset and every command of a legal build keep it. -/
theorem step_keeps {P : State → Prop} (hcongr : ∀ s t : State, t.results = s.results → P s → P t)
    (hreset : ∀ s : State, P s → P s.hardReset)
    (hexec : ∀ (i : Instr) (s t : State), s.cfg.legal = true → P s → exec i s = .next t → P t)
    {s t : State} (hP : P s) (h : step s = .next t) : P t := by
  obtain hsame | ⟨-, u, hu, rfl⟩ | ⟨i, u, -, hu, hi⟩ := step_results h
  · exact hcongr s t hsame hP
  · exact hreset u (hcongr s u hu hP)
  · obtain ⟨-, -, -, -, -, -, -, -, hcfg, -⟩ := (State.results_eq_iff s u).mp hu
    exact hexec i u t (hcfg ▸ (step_next h).1) (hcongr s u hu hP) hi

/-! ### The effect of a command -/

/-- The effects a command that answers a next state can have, one constructor for each case of `exec_next`. -/
inductive Effect (s : State) : State → Prop where
  | error (e : ErrCode) : Effect s (s.raiseError e)
  | nothing : Effect s s.finish
  | gridClear : Effect s s.gridClear.finish
  | result (v : Word) : Effect s (s.setRes v).finish
  | gridWrite (v : Bool) (hq : inGrid s.cfg s.posOperand = true) : Effect s (s.gridWrite s.posOperand v).finish
  | stkReset : Effect s s.stkReset.finish
  | stkPush : Effect s (s.stkPush s.operand).finish
  | stkPop (hc : s.cnt ≠ 0) : Effect s (s.popState.setRes s.popValue).finish
  | draw (v : Word) : Effect s (s.drawState.setRes v).finish
  | carve (d : Dir) (hq : inGrid s.cfg s.posOperand = true) (halong : inGridAlong s.cfg s.posOperand d 2 = true) :
    Effect s ((s.carveStep s.posOperand d).setRes (packPos (stepPos s.posOperand d 2))).finish
  | setSeed (v : Word) : Effect s (s.setSeed v).finish
  | generate (q : Pos) (hq : s.cfg.legal = true → inGrid s.cfg q = true) : Effect s (s.generate q)
  | genAck : Effect s (s.setStateR .idle).finish

theorem exec_effect {i : Instr} {s t : State} (h : exec i s = .next t) : Effect s t := by
  rcases exec_next h with ⟨e, rfl, -⟩ | rfl | rfl | ⟨v, rfl⟩ | ⟨v, hq, rfl⟩ | rfl | ⟨-, rfl⟩ | ⟨-, hc, rfl⟩ | ⟨v, rfl⟩ |
    ⟨d, hq, halong, rfl⟩ | ⟨v, rfl⟩ | ⟨q, hq, rfl⟩ | rfl
  · exact .error e
  · exact .nothing
  · exact .gridClear
  · exact .result v
  · exact .gridWrite v hq
  · exact .stkReset
  · exact .stkPush
  · exact .stkPop hc
  · exact .draw v
  · exact .carve d hq halong
  · exact .setSeed v
  · exact .generate q hq
  · exact .genAck

end Sys2Proof.Machine
end

section
/-! PROOF. Every step keeps the grid's invariant (spec/10_state.md R22, spec/20_memory.md R58). -/

namespace Sys2Proof.Machine

theorem GridInv.generate {s : State} {q : Pos} (hp : s.cfg.legal = true) (hq : inGrid s.cfg q = true) :
    GridInv (s.generate q) :=
  (genInside_generateExit hp hq).grid.of_eq rfl rfl

/-- No command breaks the grid's invariant: the writes are cell writes inside the grid. -/
theorem GridInv.exec {i : Instr} {s t : State} (h : GridInv s) (hexec : exec i s = .next t) : GridInv t := by
  cases exec_effect hexec with
  | gridClear => exact (GridInv.gridClear h.legal).of_eq rfl rfl
  | gridWrite v hq => exact (h.gridWrite v hq).of_eq rfl rfl
  | carve d hq halong =>
    exact (h.carveStep (inGrid_stepPos (inGridAlong_one_of_two hq halong)) (inGrid_stepPos halong)).of_eq rfl rfl
  | generate q hq => exact GridInv.generate h.legal (hq h.legal)
  | error | nothing | result | stkReset | stkPush | stkPop | draw | setSeed | genAck => exact h.of_eq rfl rfl

/-- Settles O54: the invariant speaks of the results, a reset leaves the cleared grid, and `GridInv.exec` is the
commands. -/
theorem stepKeepsTheGridInvariant : Obligations.StepKeepsTheGridInvariant := by
  intro s t h hstep
  refine step_keeps (P := GridInv) (fun s t hsame h => ?congr) (fun s h => ?reset)
    (fun i s t _ h hexec => h.exec hexec) h hstep
  case congr =>
    obtain ⟨hgrid, -, -, -, -, -, -, -, hcfg, -⟩ := (State.results_eq_iff s t).mp hsame
    exact h.of_eq hgrid hcfg
  case reset => exact (GridInv.gridClear h.legal).of_eq rfl rfl

end Sys2Proof.Machine
end

section
/-! PROOF. Every step keeps the stack's invariant (spec/10_state.md R23 to R26, spec/42_stack.md R120 to R122). -/

namespace Sys2Proof.Machine

/-! ### Written slots -/

theorem slotWritten_stkPush_same (s : State) (v : Word) : (s.stkPush v).slotWritten s.idx :=
  fun _ hb => Memory.find?_setWord_none_isSome s.slots s.idx v hb

theorem State.slotWritten.stkPush {s : State} {i : Nat} (h : s.slotWritten i) (v : Word) :
    (s.stkPush v).slotWritten i := by
  by_cases he : i = s.idx
  · exact he ▸ slotWritten_stkPush_same s v
  · intro b hb
    rw [State.stkPush_slots, Memory.find?_setWord_ne none s.slots v (by omega)]
    exact h b hb

/-! ### The operations -/

/-- An empty stack of a legal build, whatever its slots hold in form. -/
theorem stackInv_of_empty {s : State} (hp : s.cfg.legal = true) (hcanonical : Memory.wf none s.slots = true)
    (hwithin : Memory.within s.cfg.cap s.slots = true) (hidx : s.idx = 0) (hcnt : s.cnt = 0) : StackInv s where
  legal := hp
  canonical := hcanonical
  within := hwithin
  idxInRing := hidx ▸ (cap_bounds_of_legal hp).1
  overSeen := by
    intro h
    rw [hcnt] at h
    exact absurd h (Nat.not_lt_zero _)
  liveWritten := by
    intro i hi
    rw [hcnt] at hi
    exact absurd hi (Nat.not_lt_zero _)

theorem StackInv.stkReset {s : State} (h : StackInv s) : StackInv s.stkReset :=
  stackInv_of_empty h.legal h.canonical h.within rfl rfl

/-- A push writes the slot the next pop reads and moves the others one pop further away; where CNT wraps to 0 no pop
is left that would read one (R25, R120). -/
theorem StackInv.stkPush {s : State} (h : StackInv s) (v : Word) : StackInv (s.stkPush v) where
  legal := h.legal
  canonical := Memory.wf_setWord none s.slots s.idx v h.canonical
  within := Memory.within_setWord s.cfg.cap none s.slots v h.idxInRing h.within
  idxInRing := Nat.mod_lt _ (Nat.zero_lt_of_lt h.idxInRing)
  overSeen := fun hlt => (ovfAfterPush_iff _ _ _).mpr (.inr hlt)
  liveWritten := by
    intro i hi hcap
    cases i with
    | zero =>
      rw [liveSlot_stkPush_zero v h.idxInRing]
      exact slotWritten_stkPush_same s v
    | succ i =>
      have hsucc : (s.cnt + 1).toNat = (s.cnt.toNat + 1) % 2 ^ 32 := by simp [BitVec.toNat_add]
      have hle := Nat.mod_le (s.cnt.toNat + 1) (2 ^ 32)
      rw [State.stkPush_cnt, hsucc] at hi
      rw [State.stkPush_cfg] at hcap
      rw [liveSlot_stkPush_succ s v hcap]
      exact (h.liveWritten i (by omega) (by omega)).stkPush v

/-- A pop leaves the slots; the farthest of CAP live ones is the slot it read itself (R121). -/
theorem StackInv.popState {s : State} (h : StackInv s) (hc : s.cnt ≠ 0) : StackInv s.popState where
  legal := h.legal
  canonical := h.canonical
  within := h.within
  idxInRing := Nat.mod_lt _ (Nat.zero_lt_of_lt h.idxInRing)
  overSeen := by
    intro hlt
    rw [State.popState_cnt, toNat_pred_of_ne hc, State.popState_cfg] at hlt
    exact h.overSeen (by omega)
  liveWritten := by
    intro i hi hcap
    rw [State.popState_cnt, toNat_pred_of_ne hc] at hi
    rw [State.popState_cfg] at hcap
    by_cases hlast : i + 1 < s.cfg.cap
    · rw [liveSlot_popState s hlast]
      exact h.liveWritten (i + 1) (by omega) hlast
    · have hi' : i = s.cfg.cap - 1 := by omega
      have hread : s.popState.liveSlot i = s.liveSlot 0 := by
        rw [State.liveSlot, State.popState_idx, State.popState_cfg, popIdx_eq_liveSlot_zero, hi',
          Nat.add_sub_assoc (Nat.one_le_of_lt hcap), Nat.add_sub_cancel, State.liveSlot, Nat.mod_mod]
      rw [hread]
      exact h.liveWritten 0 (by omega) (by omega)

/-- The invariant speaks of the stack alone. -/
theorem StackInv.congr {s t : State} (h : StackInv s) (hst : t.stackPart = s.stackPart) : StackInv t := by
  obtain ⟨hslots, -, hidx, hcnt, hovf, hcfg⟩ := (State.stackPart_eq_iff s t).mp hst
  refine ⟨?_, ?_, ?_, ?_, ?_, ?_⟩
  · rw [hcfg]; exact h.legal
  · rw [hslots]; exact h.canonical
  · rw [hslots, hcfg]; exact h.within
  · rw [hidx, hcfg]; exact h.idxInRing
  · rw [hcnt, hovf, hcfg]; exact h.overSeen
  · simpa only [State.slotWritten, State.liveSlot, hslots, hidx, hcnt, hcfg] using h.liveWritten

theorem StackInv.generate {s : State} {q : Pos} (h : StackInv s) (hq : inGrid s.cfg q = true) :
    StackInv (s.generate q) :=
  have hexit : StackInv (s.generateExit q).state :=
    generateExit_induct (fun t _ => StackInv t) (fun _ r _ _ ht _ => (ht.stkPush (packPos r)).congr rfl)
      (fun _ _ _ hc ht => ht.popState hc) s q h.legal hq ((h.stkReset.stkPush (packPos q)).congr rfl)
  hexit.congr rfl

theorem StackInv.exec {i : Instr} {s t : State} (h : StackInv s) (hexec : exec i s = .next t) : StackInv t := by
  cases exec_effect hexec with
  | stkReset => exact h.stkReset.congr rfl
  | stkPush => exact (h.stkPush s.operand).congr rfl
  | stkPop hc => exact (h.popState hc).congr rfl
  | generate q hq => exact h.generate (hq h.legal)
  | error | nothing | gridClear | result | gridWrite | draw | carve | setSeed | genAck => exact h.congr rfl

/-- Settles O55: the invariant speaks of the results, a reset leaves an empty stack and no slot listed, and
`StackInv.exec` is the commands. -/
theorem stepKeepsTheStackInvariant : Obligations.StepKeepsTheStackInvariant := by
  intro s t h hstep
  refine step_keeps (P := StackInv) (fun s t hsame h => ?congr) (fun s h => ?reset)
    (fun i s t _ h hexec => h.exec hexec) h hstep
  case congr =>
    obtain ⟨-, hslots, hidx, hcnt, hovf, -, -, -, hcfg, hepoch⟩ := (State.results_eq_iff s t).mp hsame
    exact h.congr ((State.stackPart_eq_iff s t).mpr ⟨hslots, hepoch, hidx, hcnt, hovf, hcfg⟩)
  case reset => exact stackInv_of_empty h.legal rfl rfl rfl rfl

end Sys2Proof.Machine
end

section
/-! PROOF. No step changes the build or makes STATE_R CARVING (spec/00_scope.md R6, spec/10_state.md R29). -/

namespace Sys2Proof.Machine

/-- A generation ends in DONE or OVERFLOW (R183). -/
theorem generate_stateRLegal {s : State} {q : Pos} (hp : s.cfg.legal = true) (hq : inGrid s.cfg q = true) :
    (s.generate q).stateRLegal := by
  rw [State.stateRLegal, State.generate_stateR]
  obtain ⟨-, -, ⟨hres, -⟩ | ⟨hres, -⟩⟩ := generateExit_spec s q hp hq
  · rw [hres]
    decide
  · rw [hres]
    decide

theorem exec_cfg {i : Instr} {s t : State} (hp : s.cfg.legal = true) (hexec : exec i s = .next t) : t.cfg = s.cfg := by
  cases exec_effect hexec with
  | generate q hq => exact (genFrame_generateExit hp (hq hp)).cfg
  | error | nothing | gridClear | result | gridWrite | stkReset | stkPush | stkPop | draw | carve | setSeed | genAck =>
    rfl

theorem exec_stateRLegal {i : Instr} {s t : State} (hp : s.cfg.legal = true) (h : s.stateRLegal)
    (hexec : exec i s = .next t) : t.stateRLegal := by
  cases exec_effect hexec with
  | generate q hq => exact generate_stateRLegal hp (hq hp)
  | genAck => exact fun h => nomatch h
  | error | nothing | gridClear | result | gridWrite | stkReset | stkPush | stkPop | draw | carve | setSeed => exact h

/-- Settles O56: both are kept by a reset, which leaves IDLE, and by every command. -/
theorem stepKeepsBuildAndLegalState : Obligations.StepKeepsBuildAndLegalState := by
  intro s t hstep
  refine ⟨step_keeps (P := fun u => u.cfg = s.cfg) ?cfgCongr (fun _ h => h) ?cfgExec rfl hstep,
    fun h => step_keeps (P := State.stateRLegal) ?stateCongr (fun _ _ => nofun) ?stateExec h hstep⟩
  case cfgCongr =>
    intro u v hsame hu
    obtain ⟨-, -, -, -, -, -, -, -, hcfg, -⟩ := (State.results_eq_iff u v).mp hsame
    exact hcfg.trans hu
  case cfgExec => exact fun i u v hp hu hexec => (exec_cfg hp hexec).trans hu
  case stateCongr =>
    intro u v hsame hu
    obtain ⟨-, -, -, -, -, -, -, hstate, -⟩ := (State.results_eq_iff u v).mp hsame
    rwa [State.stateRLegal, hstate]
  case stateExec => exact fun i u v hp hu hexec => exec_stateRLegal hp hu hexec

end Sys2Proof.Machine
end

section
/-! SUPPORT. What holds of every next state a command answers, branch by branch (spec/70_reset_and_hazards.md R244).
-/

namespace Sys2Proof.Machine

/-- `P` holds of the next state, where the outcome is one. -/
def Answers (P : State → Prop) (o : Host.Outcome State Fault Refusal) : Prop := ∀ t, o = .next t → P t

theorem answers_next {P : State → Prop} {t : State} (h : P t) : Answers P (.next t) := by
  rintro u ⟨⟩
  exact h

theorem answers_fault (P : State → Prop) (r : Fault) : Answers P (.fault r) := by
  rintro t ⟨⟩

theorem answers_ite {P : State → Prop} {p : Prop} [Decidable p] {o o' : Host.Outcome State Fault Refusal}
    (h : p → Answers P o) (h' : ¬ p → Answers P o') : Answers P (if p then o else o') := by
  split
  case isTrue hp => exact h hp
  case isFalse hp => exact h' hp

/-- STK_POP with its two tests as tests: of CNT, then of IDX (R124; log entry 12). -/
theorem exec_stkPop_eq_ite (s : State) : exec .stkPop s =
    if s.cnt = 0 then .next (s.raiseError .empty)
    else if s.idx < s.cfg.cap then .next (s.popState.setRes s.popValue).finish else .fault .slotOutside := by
  by_cases hc : s.cnt = 0
  · rw [exec_stkPop_of_cnt_zero hc, if_pos hc]
  · simp only [exec, execStkPop, State.stkPop, if_neg hc]

end Sys2Proof.Machine
end

section
/-! PROOF. Which commands produce which error code (spec/60_exceptions.md R211). -/

namespace Sys2Proof.Machine

/-- The commands that take an operand with a range (R211). -/
def rangeCommands : List Instr :=
  [.gridRead, .gridWrite false, .gridWrite true, .gridRdword, .nbr, .pick, .carve .north, .carve .east, .carve .south,
    .carve .west, .genRun]

/-- R211's table, read from the code to its commands: what the completion of `i` in `s` may leave in ERR. -/
structure ErrorSource (i : Instr) (s t : State) : Prop where
  ready : t.infl = .none
  illegal : t.err ≠ .illegal
  range : t.err = .range → i ∈ rangeCommands
  empty : t.err = .empty → i = .stkPop ∧ s.cnt = 0
  nodir : t.err = .nodir → i = .pick
  stkovf : t.err = .stkovf → (i = .genRun ∨ i = .genCenter) ∧ t.stateR = .overflow

theorem errorSource_of_ok {i : Instr} {s t : State} (hready : t.infl = .none) (herr : t.err = .ok) :
    ErrorSource i s t := by
  refine ⟨hready, ?_, ?_, ?_, ?_, ?_⟩ <;> rw [herr] <;> nofun

theorem errorSource_of_stkovf {i : Instr} {s t : State} (hi : i = .genRun ∨ i = .genCenter) (hready : t.infl = .none)
    (herr : t.err = .stkovf) (hstate : t.stateR = .overflow) : ErrorSource i s t := by
  refine ⟨hready, ?_, ?_, ?_, ?_, fun _ => ⟨hi, hstate⟩⟩ <;> rw [herr] <;> nofun

theorem errorSource_range {i : Instr} (s : State) (h : i ∈ rangeCommands) : ErrorSource i s (s.raiseError .range) :=
  ⟨rfl, nofun, fun _ => h, nofun, nofun, nofun⟩

/-- A generation ends in DONE with OK or in OVERFLOW with STKOVF (R183, R213). -/
theorem errorSource_generate {i : Instr} {s : State} {q : Pos} (hi : i = .genRun ∨ i = .genCenter)
    (hp : s.cfg.legal = true) (hq : inGrid s.cfg q = true) : ErrorSource i s (s.generate q) := by
  obtain ⟨-, -, ⟨hres, -⟩ | ⟨hres, -⟩⟩ := generateExit_spec s q hp hq
  · exact errorSource_of_ok rfl (by rw [State.generate_err, hres, genErr])
  · exact errorSource_of_stkovf hi rfl (by rw [State.generate_err, hres, genErr]) hres

theorem exec_errorSource (i : Instr) {s : State} (hp : s.cfg.legal = true) : Answers (ErrorSource i s) (exec i s) := by
  have hok (u : State) : Answers (ErrorSource i s) (.next u.finish) := answers_next (errorSource_of_ok rfl rfl)
  have hrange (h : i ∈ rangeCommands) : Answers (ErrorSource i s) (.next (s.raiseError .range)) :=
    answers_next (errorSource_range s h)
  cases i with
  | nop | gridClear | stkReset | stkSize | prngNext | prngTick | prngSeed | genAck => exact hok _
  | gridRead | gridRdword | nbr => exact answers_ite (fun _ => hok _) fun _ => hrange (by decide)
  | gridWrite v => exact answers_ite (fun _ => hok _) fun _ => hrange (by cases v <;> decide)
  | stkPush => exact answers_ite (fun _ => hok _) fun _ => answers_fault _ _
  | stkPop =>
    rw [exec_stkPop_eq_ite]
    refine answers_ite (fun hc => answers_next ?_) fun _ => answers_ite (fun _ => hok _) fun _ => answers_fault _ _
    exact ⟨rfl, nofun, nofun, fun _ => ⟨rfl, hc⟩, nofun, nofun⟩
  | pick =>
    refine answers_ite (fun _ => answers_ite (fun _ => answers_next ?_) fun _ => hok _) fun _ => hrange (by decide)
    exact ⟨rfl, nofun, nofun, nofun, fun _ => rfl, nofun⟩
  | carve d =>
    have hmem : Instr.carve d ∈ rangeCommands := by cases d <;> decide
    exact answers_ite (fun _ => answers_ite (fun _ => hok _) fun _ => hrange hmem) fun _ => hrange hmem
  | genRun =>
    exact answers_ite (fun hq => answers_next (errorSource_generate (.inl rfl) hp hq)) fun _ => hrange (by decide)
  | genCenter => exact answers_next (errorSource_generate (.inr rfl) hp (inGrid_centerPos hp))

/-- Settles O49: the clauses are those of `ErrorSource`, which holds at every end of every command. -/
theorem eachErrorComesFromItsCommands : Obligations.EachErrorComesFromItsCommands := by
  intro i s t hp hexec
  obtain ⟨hready, hillegal, hrange, hempty, hnodir, hstkovf⟩ := exec_errorSource i hp t hexec
  exact ⟨hready, hillegal, hrange, hempty, hnodir, hstkovf⟩

end Sys2Proof.Machine
end

section
/-! PROOF. Which steps change SEED, CUR, STATE_R and OVF (spec/10_state.md R26 to R29, spec/44_prng.md R165,
spec/45_generator.md R180). -/

namespace Sys2Proof.Machine

/-- What a command may change of the registers that outlive it. -/
structure RegisterSource (i : Instr) (s t : State) : Prop where
  seed : t.seed ≠ s.seed → i ∈ [Instr.prngNext, .prngTick, .prngSeed, .pick, .genRun, .genCenter]
  cur : t.cur ≠ s.cur → i ∈ [Instr.genRun, .genCenter]
  stateR : t.stateR ≠ s.stateR → i ∈ [Instr.genRun, .genCenter, .genAck]
  ovfCleared : s.ovf = true → t.ovf = false → i ∈ [Instr.stkReset, .genRun, .genCenter]
  ovfSet : s.ovf = false → t.ovf = true → i ∈ [Instr.stkPush, .genRun, .genCenter]

/-- A command that leaves CUR, STATE_R and OVF needs to answer for SEED alone. -/
theorem registerSource_of_kept {i : Instr} {s t : State}
    (hseed : t.seed ≠ s.seed → i ∈ [Instr.prngNext, .prngTick, .prngSeed, .pick, .genRun, .genCenter])
    (hcur : t.cur = s.cur) (hstate : t.stateR = s.stateR) (hovf : t.ovf = s.ovf) : RegisterSource i s t where
  seed := hseed
  cur := fun h => absurd hcur h
  stateR := fun h => absurd hstate h
  ovfCleared := fun h h' => by simp [hovf, h] at h'
  ovfSet := fun h h' => by simp [hovf, h] at h'

/-- A generation may change them all. -/
theorem registerSource_of_generation {i : Instr} (s t : State) (h : i = .genRun ∨ i = .genCenter) :
    RegisterSource i s t := by
  obtain rfl | rfl := h <;>
    exact ⟨fun _ => by decide, fun _ => by decide, fun _ => by decide, fun _ _ => by decide, fun _ _ => by decide⟩

theorem exec_registerSource (i : Instr) (s : State) : Answers (RegisterSource i s) (exec i s) := by
  have hsame (t : State) (hseed : t.seed = s.seed) (hcur : t.cur = s.cur) (hstate : t.stateR = s.stateR)
      (hovf : t.ovf = s.ovf) : Answers (RegisterSource i s) (.next t) :=
    answers_next (registerSource_of_kept (fun h => absurd hseed h) hcur hstate hovf)
  have herr (e : ErrCode) : Answers (RegisterSource i s) (.next (s.raiseError e)) := hsame _ rfl rfl rfl rfl
  cases i with
  | nop | gridClear | stkSize => exact hsame _ rfl rfl rfl rfl
  | gridRead | gridWrite | gridRdword | nbr => exact answers_ite (fun _ => hsame _ rfl rfl rfl rfl) fun _ => herr _
  | carve d =>
    exact answers_ite (fun _ => answers_ite (fun _ => hsame _ rfl rfl rfl rfl) fun _ => herr _) fun _ => herr _
  | stkReset =>
    exact answers_next ⟨fun h => absurd rfl h, fun h => absurd rfl h, fun h => absurd rfl h, fun _ _ => by decide,
      fun _ => nofun⟩
  | stkPush =>
    refine answers_ite (fun _ => answers_next ?_) fun _ => answers_fault _ _
    refine ⟨fun h => absurd rfl h, fun h => absurd rfl h, fun h => absurd rfl h, fun h h' => ?_, fun _ _ => by decide⟩
    have hset : (s.stkPush s.operand).ovf = true := (ovfAfterPush_iff _ _ _).mpr (.inl h)
    exact absurd (hset.symm.trans h') (by decide)
  | stkPop =>
    rw [exec_stkPop_eq_ite]
    exact answers_ite (fun _ => herr _) fun _ =>
      answers_ite (fun _ => hsame _ rfl rfl rfl rfl) fun _ => answers_fault _ _
  | pick =>
    refine answers_ite (fun _ => answers_ite (fun _ => herr _) fun _ => answers_next ?_) fun _ => herr _
    exact registerSource_of_kept (fun _ => by decide) rfl rfl rfl
  | prngNext | prngTick | prngSeed => exact answers_next (registerSource_of_kept (fun _ => by decide) rfl rfl rfl)
  | genRun => exact fun t _ => registerSource_of_generation s t (.inl rfl)
  | genCenter => exact fun t _ => registerSource_of_generation s t (.inr rfl)
  | genAck =>
    refine answers_next
      ⟨fun h => absurd rfl h, fun h => absurd rfl h, fun _ => by decide, fun h h' => ?_, fun h h' => ?_⟩
    · exact absurd (h.symm.trans h') (by decide)
    · exact absurd (h.symm.trans h') (by decide)

theorem State.completing.mono {s : State} {i : Instr} {l : List Instr} (h : s.completing [i]) (hi : i ∈ l) :
    s.completing l := by
  obtain ⟨hseq, c, a, j, hinfl, hj, hmem⟩ := h
  exact ⟨hseq, c, a, j, hinfl, hj, List.mem_singleton.mp hmem ▸ hi⟩

/-- What a step does to the registers that outlive a command: nothing, a reset, or what the completing command may do.
-/
theorem step_registers {s t : State} (h : step s = .next t) :
    (t.seed = s.seed ∧ t.cur = s.cur ∧ t.stateR = s.stateR ∧ t.ovf = s.ovf) ∨ (s.resetNext ∧ t.ovf = false) ∨
      ∃ i, s.completing [i] ∧ RegisterSource i s t := by
  obtain hsame | ⟨hreset, u, -, rfl⟩ | ⟨i, u, hcomp, hu, hexec⟩ := step_results h
  · obtain ⟨-, -, -, -, hovf, hseed, hcur, hstate, -⟩ := (State.results_eq_iff s t).mp hsame
    exact .inl ⟨hseed, hcur, hstate, hovf⟩
  · exact .inr (.inl ⟨hreset, rfl⟩)
  · obtain ⟨-, -, -, -, hovf, hseed, hcur, hstate, -⟩ := (State.results_eq_iff s u).mp hu
    obtain ⟨h1, h2, h3, h4, h5⟩ := exec_registerSource i u t hexec
    rw [hseed] at h1
    rw [hcur] at h2
    rw [hstate] at h3
    rw [hovf] at h4 h5
    exact .inr (.inr ⟨i, hcomp, h1, h2, h3, h4, h5⟩)

/-- Settles O58: the three cases of `step_registers`, the first of which changes nothing. -/
theorem seedCurAndStateChangeOnlyByTheirCommands : Obligations.SeedCurAndStateChangeOnlyByTheirCommands := by
  intro s t hstep
  obtain ⟨hseed, hcur, hstate, -⟩ | ⟨hreset, -⟩ | ⟨i, hcomp, hsource⟩ := step_registers hstep
  · exact ⟨fun h => absurd hseed h, fun h => absurd hcur h, fun h => absurd hstate h⟩
  · exact ⟨fun _ => .inl hreset, fun _ => .inl hreset, fun _ => .inl hreset⟩
  · exact ⟨fun h => .inr (hcomp.mono (hsource.seed h)), fun h => .inr (hcomp.mono (hsource.cur h)),
      fun h => .inr (hcomp.mono (hsource.stateR h))⟩

end Sys2Proof.Machine
end

section
/-! PROOF. Host accesses and command results, and when CMDLOST is set and cleared (spec/20_memory.md R63,
spec/10_state.md R34). -/

namespace Sys2Proof.Machine

theorem eq_of_regAt_cmd : ∀ off : BitVec 6, regAt off = some .cmd → off = 0x00 := by decide

theorem eq_of_regAt_status : ∀ off : BitVec 6, regAt off = some .status → off = 0x0C := by decide

/-- A host access leaves INFL and CMDLOST, but for the full-strobe writes of CMD and of STATUS (R40, R43, R50). -/
theorem hostAccess_flags (s : State) (a : Access) :
    ((s.hostAccess a).infl = s.infl ∧ (s.hostAccess a).cmdLost = s.cmdLost) ∨
      (∃ v, a = .write 0x00 v 0b1111 ∧ (s.hostAccess a).infl = (s.writeCmd v).infl ∧
        (s.hostAccess a).cmdLost = (s.writeCmd v).cmdLost) ∨
      ∃ v, a = .write 0x0C v 0b1111 ∧ (s.hostAccess a).infl = s.infl ∧
        (s.hostAccess a).cmdLost = (s.cmdLost && !v.getLsbD 8) := by
  cases a with
  | read off =>
    cases hr : regAt off with
    | none => exact .inl (by rw [hostAccess_read_unmapped s hr]; exact ⟨rfl, rfl⟩)
    | some r => exact .inl (by rw [hostAccess_read s hr]; exact ⟨rfl, rfl⟩)
  | write off v strobe =>
    by_cases hfull : strobe = 0b1111
    · subst hfull
      cases hr : regAt off with
      | none => exact .inl (by rw [hostAccess_write_unmapped s v _ hr]; exact ⟨rfl, rfl⟩)
      | some r =>
        rw [hostAccess_write s v hr]
        cases r with
        | cmd => exact .inr (.inl ⟨v, by rw [eq_of_regAt_cmd off hr], rfl, rfl⟩)
        | status =>
          rw [eq_of_regAt_status off hr, writeReg_status]
          exact .inr (.inr ⟨v, rfl, rfl, rfl⟩)
        | arg | res | cur | seed | stkcnt | geom | capr => exact .inl ⟨rfl, rfl⟩
    · exact .inl (by rw [hostAccess_write_partial s off v hfull]; exact ⟨rfl, rfl⟩)

theorem hostAccess_res (s : State) (a : Access) : (s.hostAccess a).res = s.res := by
  rw [hostAccess_touches]

theorem hostAccess_err (s : State) (a : Access) : (s.hostAccess a).err = s.err := by
  rw [hostAccess_touches]

/-- Settles O47: `hostAccess_results` is the frame, and of the accesses that `hostAccess_flags` lists only a CMD write
of a ready machine changes INFL. -/
theorem hostStepsNeverTouchCommandResults : Obligations.HostStepsNeverTouchCommandResults := by
  intro s a
  obtain ⟨hgrid, hslots, hidx, hcnt, hovf, hseed, hcur, hstate, -⟩ :=
    (State.results_eq_iff _ _).mp (hostAccess_results s a)
  refine ⟨hgrid, hslots, hidx, hcnt, hovf, hseed, hcur, hstate, hostAccess_res s a, hostAccess_err s a, fun hne => ?_⟩
  obtain ⟨hinfl, -⟩ | ⟨v, rfl, hinfl, -⟩ | ⟨v, -, hinfl, -⟩ := hostAccess_flags s a
  · exact absurd hinfl hne
  · refine ⟨v, rfl, ?_⟩
    by_contra hbusy
    rw [State.writeCmd_of_busy v hbusy] at hinfl
    exact hne hinfl
  · exact absurd hinfl hne

end Sys2Proof.Machine
end

section
/-! PROOF. When the sticky flags are set and cleared (spec/10_state.md R26, R34). -/

namespace Sys2Proof.Machine

theorem hostAccess_clears_cmdLost {s : State} {a : Access} (h : s.cmdLost = true)
    (h' : (s.hostAccess a).cmdLost = false) : ∃ v, a = .write 0x0C v 0b1111 ∧ v.getLsbD 8 = true := by
  obtain ⟨-, hlost⟩ | ⟨v, -, -, hlost⟩ | ⟨v, ha, -, hlost⟩ := hostAccess_flags s a
  · simp [hlost, h] at h'
  · rw [hlost, State.writeCmd] at h'
    split at h'
    · cases h'
    · simp [h] at h'
  · exact ⟨v, ha, by simpa [hlost, h] using h'⟩

theorem hostAccess_sets_cmdLost {s : State} {a : Access} (h : s.cmdLost = false)
    (h' : (s.hostAccess a).cmdLost = true) : s.infl ≠ .none ∧ ∃ v, a = .write 0x00 v 0b1111 := by
  obtain ⟨-, hlost⟩ | ⟨v, ha, -, hlost⟩ | ⟨v, -, -, hlost⟩ := hostAccess_flags s a
  · simp [hlost, h] at h'
  · refine ⟨fun hready => ?_, v, ha⟩
    simp [hlost, State.writeCmd_of_ready v hready, h] at h'
  · simp [hlost, h] at h'

/-- No command touches CMDLOST (R34). -/
theorem exec_cmdLost {i : Instr} {s t : State} (hp : s.cfg.legal = true) (hexec : exec i s = .next t) :
    t.cmdLost = s.cmdLost := by
  cases exec_effect hexec with
  | generate q hq => rw [generate_frame hp (hq hp)]
  | error | nothing | gridClear | result | gridWrite | stkReset | stkPush | stkPop | draw | carve | setSeed | genAck =>
    rfl

theorem seqStep_cmdLost {s t : State} (hp : s.cfg.legal = true) (h : seqStep s = .next t) : t.cmdLost = s.cmdLost := by
  obtain ⟨-, rfl⟩ | ⟨-, rfl⟩ | ⟨c, a, -, ⟨e, -, rfl⟩ | ⟨i, -, hexec⟩⟩ := seqStep_next h
  · rfl
  · rfl
  · rfl
  · exact exec_cmdLost hp hexec

/-- What a step does to CMDLOST: nothing, a reset, or the host access that is the next event. -/
theorem step_cmdLost {s t : State} (h : step s = .next t) : t.cmdLost = s.cmdLost ∨ (s.resetNext ∧ t.cmdLost = false) ∨
    ∃ a rest, s.pending = .host a :: rest ∧ t = State.hostAccess { s with pending := rest } a := by
  obtain ⟨hp, h⟩ := step_next h
  obtain ⟨-, h⟩ | ⟨a, rest, hhost, ht⟩ | ⟨rest, -, h⟩ | ⟨rest, hreset, rfl⟩ := nextStep_next h
  · exact .inl (seqStep_cmdLost hp h)
  · exact .inr (.inr ⟨a, rest, hhost, ht⟩)
  · exact .inl (seqStep_cmdLost (s := { s with pending := rest }) hp h)
  · exact .inr (.inl ⟨⟨rest, hreset⟩, rfl⟩)

/-- Settles O59: OVF through `step_registers`, whose reset clears and never sets; CMDLOST through `step_cmdLost` and
the two host writes that reach it. -/
theorem stickyFlagsClearOnlyAsTheRulesSay : Obligations.StickyFlagsClearOnlyAsTheRulesSay := by
  intro s t hstep
  refine ⟨fun h h' => ?ovfCleared, fun h h' => ?ovfSet, fun h h' => ?lostCleared, fun h h' => ?lostSet⟩
  case ovfCleared =>
    obtain ⟨-, -, -, hovf⟩ | ⟨hreset, -⟩ | ⟨i, hcomp, hsource⟩ := step_registers hstep
    · simp [hovf, h] at h'
    · exact .inl hreset
    · exact .inr (hcomp.mono (hsource.ovfCleared h h'))
  case ovfSet =>
    obtain ⟨-, -, -, hovf⟩ | ⟨-, hovf⟩ | ⟨i, hcomp, hsource⟩ := step_registers hstep
    · simp [hovf, h] at h'
    · simp [hovf] at h'
    · exact hcomp.mono (hsource.ovfSet h h')
  case lostCleared =>
    obtain hlost | ⟨hreset, -⟩ | ⟨a, rest, hhost, rfl⟩ := step_cmdLost hstep
    · simp [hlost, h] at h'
    · exact .inl hreset
    · obtain ⟨v, rfl, hv⟩ := hostAccess_clears_cmdLost (s := { s with pending := rest }) h h'
      exact .inr ⟨v, rest, hhost, hv⟩
  case lostSet =>
    obtain hlost | ⟨-, hlost⟩ | ⟨a, rest, hhost, rfl⟩ := step_cmdLost hstep
    · simp [hlost, h] at h'
    · simp [hlost] at h'
    · obtain ⟨hbusy, v, rfl⟩ := hostAccess_sets_cmdLost (s := { s with pending := rest }) h h'
      exact ⟨hbusy, v, rest, hhost⟩

end Sys2Proof.Machine
end

section
/-! PROOF. A legal machine goes on (spec/60_exceptions.md, sections 1 and 2). -/

namespace Sys2Proof.Machine

/-- Where IDX names a slot every command answers a next state. -/
theorem exec_goes_on (i : Instr) {s : State} (hidx : s.idx < s.cfg.cap) : ∃ t, exec i s = .next t := by
  have hite (p : Prop) [Decidable p] (t u : State) :
      ∃ v, (if p then .next t else .next u : Host.Outcome State Fault Refusal) = .next v :=
    ⟨if p then t else u, (apply_ite ..).symm⟩
  cases i with
  | nop | gridClear | stkReset | stkSize | prngNext | prngTick | prngSeed | genCenter | genAck => exact ⟨_, rfl⟩
  | gridRead | gridWrite | gridRdword | nbr | genRun => exact hite ..
  | stkPush => exact ⟨_, exec_stkPush_of_idx_lt hidx⟩
  | stkPop =>
    by_cases hc : s.cnt = 0
    · exact ⟨_, exec_stkPop_of_cnt_zero hc⟩
    · exact ⟨_, exec_stkPop_of_cnt_ne hc hidx⟩
  | pick =>
    simp only [exec, execPick]
    split
    · exact hite ..
    · exact ⟨_, rfl⟩
  | carve d =>
    simp only [exec, execCarve]
    split
    · exact hite ..
    · exact ⟨_, rfl⟩

theorem seqStep_goes_on {s : State} (hidx : s.idx < s.cfg.cap) : ∃ t, seqStep s = .next t := by
  unfold seqStep
  split
  case h_1 => exact ⟨_, rfl⟩
  case h_2 => exact ⟨_, rfl⟩
  case h_3 c _ _ =>
    unfold completeWord
    split
    case h_1 i _ => exact exec_goes_on i hidx
    case h_2 => exact ⟨_, rfl⟩

/-- Settles O57: a legal build is not refused, a host access and a reset always answer, and `seqStep_goes_on` is the
rest. -/
theorem legalMachineAlwaysGoesOn : Obligations.LegalMachineAlwaysGoesOn := by
  intro s hp hidx
  unfold State.goesOn
  rw [step_of_legal hp, nextStep]
  split
  case h_1 => exact seqStep_goes_on hidx
  case h_2 e rest _ =>
    cases e with
    | host a => exact ⟨_, rfl⟩
    | seq => exact seqStep_goes_on (s := { s with pending := rest }) hidx
    | reset => exact ⟨_, rfl⟩

end Sys2Proof.Machine
end

section
/-! PROOF. The encoding and its sample words (spec/30_encoding.md R80 to R84), and the codes of R14, R29 and R211. -/

namespace Sys2Proof.Machine

/-- Settles O1: both directions are laws of the decoder. -/
theorem decodeAndEncodeAgree : Obligations.DecodeAndEncodeAgree :=
  ⟨decode_encode, fun _ _ => encode_of_decode⟩

/-- Settles O4: each word is the encoder's word of its command, written out. -/
theorem sampleWordsDecode : Obligations.SampleWordsDecode :=
  ⟨decode_encode (.gridWrite true), decode_encode (.carve .west), decode_encode .stkPush, decode_encode .prngNext,
    decode_encode .genRun, .strayDirection, rfl⟩

/-- Settles O10: the tables, entry by entry. -/
theorem codesOfDirectionsStatesAndErrors : Obligations.CodesOfDirectionsStatesAndErrors :=
  ⟨rfl, rfl, rfl⟩

end Sys2Proof.Machine
end

section
/-! PROOF. The step as the next event, and the SEQ step as the decoded command (spec/00_scope.md R9,
spec/70_reset_and_hazards.md R241 to R244). -/

namespace Sys2Proof.Machine

/-! ### One equation per event -/

theorem nextStep_of_pending_host {s : State} {a : Access} {rest : List Event} (h : s.pending = .host a :: rest) :
    nextStep s = .next (State.hostAccess { s with pending := rest } a) := by
  simp only [nextStep, h, takeEvent]

theorem nextStep_of_pending_reset {s : State} {rest : List Event} (h : s.pending = .reset :: rest) :
    nextStep s = .next (State.hardReset { s with pending := rest }) := by
  simp only [nextStep, h, takeEvent]

/-- The SEQ step is not enabled while nothing is in flight (R244; log entry 9). -/
theorem seqStep_of_ready {s : State} (h : s.infl = .none) : seqStep s = .next s := by
  simp only [seqStep, h]

/-- RESET_CLEAR only ends (R241). -/
theorem seqStep_of_resetClear {s : State} (h : s.infl = .resetClear) : seqStep s = .next { s with infl := .none } := by
  simp only [seqStep, h]

theorem seqStep_of_decode {s : State} {c a : Word} {i : Instr} (h : s.infl = .command c a) (hi : decode c = .ok i) :
    seqStep s = exec i s := by
  rw [seqStep_of_command h, completeWord, hi]

/-- The SEQ step comes by itself, or as a stored event that it takes off (R248). -/
theorem step_of_pending_nil {s : State} (hp : s.cfg.legal = true) (h : s.pending = []) : step s = seqStep s :=
  (step_of_legal hp).trans (nextStep_of_pending_nil h)

theorem step_of_pending_seq {s : State} {rest : List Event} (hp : s.cfg.legal = true) (h : s.pending = .seq :: rest) :
    step s = seqStep { s with pending := rest } :=
  (step_of_legal hp).trans (nextStep_of_pending_seq h)

theorem step_of_pending_reset {s : State} {rest : List Event} (hp : s.cfg.legal = true)
    (h : s.pending = .reset :: rest) : step s = .next (State.hardReset { s with pending := rest }) :=
  (step_of_legal hp).trans (nextStep_of_pending_reset h)

/-! ### The statements -/

/-- Settles O5: in both forms the SEQ step is `seqStep_of_decode`. -/
theorem stepRunsTheDecodedCommand : Obligations.StepRunsTheDecodedCommand := by
  intro s c a i hp hinfl hi
  refine ⟨fun hnil => ?_, fun rest hseq => ?_⟩
  · rw [step_of_pending_nil hp hnil, seqStep_of_decode hinfl hi]
  · rw [step_of_pending_seq hp hseq, seqStep_of_decode (s := { s with pending := rest }) hinfl hi]

/-- Settles O6: one equation for each event, and the SEQ step of a ready machine for the last two clauses. -/
theorem stepTakesTheNextEvent : Obligations.StepTakesTheNextEvent := by
  intro s rest hp
  refine ⟨fun a hhost => ?host, fun hreset => step_of_pending_reset hp hreset, fun hseq hready => ?seq,
    fun hnil hready => ?idle⟩
  case host => exact (step_of_legal hp).trans (nextStep_of_pending_host hhost)
  case seq => rw [step_of_pending_seq hp hseq, seqStep_of_ready (s := { s with pending := rest }) hready]
  case idle => rw [step_of_pending_nil hp hnil, seqStep_of_ready hready]

/-- Settles O7: the placed word comes with a stored SEQ event on top, and a word of 32 bits is placed whole. -/
theorem placedWordRunsNext : Obligations.PlacedWordRunsNext := by
  intro s i hp
  have hword : BitVec.ofNat 32 ((encode i).toNat % 2 ^ 32) = encode i := by
    rw [Nat.mod_eq_of_lt (encode i).isLt, BitVec.ofNat_toNat, BitVec.setWidth_eq]
  rw [State.withFetchWord, State.placeWord, hword]
  have hseq := step_of_pending_seq
    (s := { s with infl := .command (encode i) s.arg, pending := .seq :: s.pending }) hp rfl
  exact hseq.trans (seqStep_of_decode rfl (decode_encode i))

end Sys2Proof.Machine
end

section
/-! PROOF. The operand and the packing of Positions (spec/00_scope.md R13, spec/30_encoding.md R87). -/

namespace Sys2Proof.Machine

theorem toNat_lowHalf (w : Word) : (w.extractLsb' 0 16).toNat = w.toNat % 65536 := by
  simp [BitVec.extractLsb'_toNat]

theorem toNat_highHalf (w : Word) : (w.extractLsb' 16 16).toNat = w.toNat / 65536 := by
  rw [BitVec.extractLsb'_toNat, Nat.shiftRight_eq_div_pow]
  omega

/-- Settles O9: the operand of a command in flight is its latched word, and its halves are `toNat_lowHalf` and
`toNat_highHalf`. -/
theorem operandIsTheLatchedWord : Obligations.OperandIsTheLatchedWord := by
  refine ⟨fun s c a hinfl => ?operand, packPos_unpackPos, fun q hx hy => ?pack⟩
  case operand =>
    have hop := State.operand_of_command hinfl
    refine ⟨hop, ?_, ?_, ?_⟩
    · rw [State.posOperand, hop, unpackPos, toNat_lowHalf, toNat_highHalf]
    · rw [State.wordOperandK, hop, toNat_lowHalf]
    · rw [State.wordOperandY, hop, toNat_highHalf]
  case pack =>
    refine ⟨unpackPos_packPos q hx hy, ?_⟩
    rw [packPos_eq_ofNat hx, BitVec.toNat_ofNat]
    omega

end Sys2Proof.Machine
end

section
/-! PROOF. STK_RESET, and the stop of a push or a pop where IDX names no slot (spec/42_stack.md R122; log entry 12).
-/

namespace Sys2Proof.Machine

/-- Settles O15: STK_RESET writes the three registers and its completion. -/
theorem stkResetEmptiesTheStack : Obligations.StkResetEmptiesTheStack :=
  ⟨decode_encode .stkReset, exec_stkReset⟩

/-- Settles O19: the test of IDX fails, for a pop after the test of CNT. -/
theorem stackStopsWhereIdxNamesNoSlot : Obligations.StackStopsWhereIdxNamesNoSlot := by
  intro s hidx
  refine ⟨if_neg (Nat.not_lt.mpr hidx), fun hc => ?_⟩
  rw [exec_stkPop_eq_ite, if_neg hc, if_neg (Nat.not_lt.mpr hidx)]

end Sys2Proof.Machine
end

section
/-! PROOF. The reads of a ready block (spec/10_state.md R40 to R48, spec/20_memory.md R55). -/

namespace Sys2Proof.Machine

theorem geomWord_eq_ofNat (p : Params) : geomWord p = BitVec.ofNat 32 (p.h % 65536 * 65536 + p.w % 65536) := by
  apply BitVec.eq_of_toNat_eq
  simp only [geomWord, toNat_append_eq_add, BitVec.toNat_ofNat]
  omega

/-- No read of a ready block draws a free value (R247). -/
theorem readDraws_of_ready {s : State} (h : s.infl = .none) (r : Reg) : s.readDraws r = 0 := by
  cases r with
  | status | cur | seed | stkcnt => rw [State.readDraws, State.busy_eq_false h, if_neg Bool.false_ne_true]
  | cmd | arg | res | geom | capr => rfl

/-- Settles O41: a read that draws nothing answers `State.readValue`, which for a ready block is the register. -/
theorem readyReadsAnswerTheRegisters : Obligations.ReadyReadsAnswerTheRegisters := by
  refine ⟨fun s hready p hp => ?ready, fun s => hostAccess_read_of_no_draw (r := .cmd) s rfl rfl⟩
  have hread (off : BitVec 6) (r : Reg) (v : Word) (hr : regAt off = some r) (hv : s.readValue r = v) :
      s.hostAccess (.read off) = { s with responses := .readOk v :: s.responses } :=
    hv ▸ hostAccess_read_of_no_draw s hr (readDraws_of_ready hready r)
  have hlive (v : Nat → Word) (w : Word) : (if s.busy then v s.draws else w) = w := by
    rw [State.busy_eq_false hready, if_neg Bool.false_ne_true]
  simp only [List.mem_cons, List.not_mem_nil, or_false] at hp
  obtain rfl | rfl | rfl | rfl | rfl | rfl | rfl | rfl := hp
  · exact hread _ .cmd _ rfl rfl
  · exact hread _ .arg _ rfl rfl
  · exact hread _ .res _ rfl rfl
  · exact hread _ .cur _ rfl (hlive _ _)
  · exact hread _ .seed _ rfl (hlive _ _)
  · exact hread _ .stkcnt _ rfl (hlive _ _)
  · exact hread _ .geom _ rfl (geomWord_eq_ofNat s.cfg)
  · exact hread _ .capr _ rfl rfl

/-- Settles O46: the reference sizes, packed. -/
theorem referenceGeometryReads : Obligations.ReferenceGeometryReads :=
  ⟨rfl, rfl⟩

end Sys2Proof.Machine
end

section
/-! PROOF. Reset (spec/70_reset_and_hazards.md R240 to R242). -/

namespace Sys2Proof.Machine

/-- The grid of a reset is the cleared one (R241; log entry 6). -/
theorem gridWord_hardReset (s : State) (a : Nat) : s.hardReset.gridWord a = 0 :=
  gridWord_gridClear s a

/-- Settles O50: the reset step leaves the state of power-on, with no slot listed and the grid cleared. -/
theorem resetSetsEveryElement : Obligations.ResetSetsEveryElement := by
  intro s rest hp hreset
  exact ⟨_, step_of_pending_reset hp hreset, rfl, rfl, rfl, rfl, rfl, rfl, rfl, rfl, rfl, rfl, rfl, rfl, rfl,
    fun _ => rfl, gridWord_hardReset _⟩

/-- Settles O51: the clear is done at the reset step, and its completion is `seqStep_of_resetClear`. -/
theorem postResetClearOnlyEnds : Obligations.PostResetClearOnlyEnds := by
  refine ⟨fun s a => ⟨gridWord_hardReset s a, rfl⟩, fun s hp hclear => ⟨fun hnil => ?_, fun rest hseq => ?_⟩⟩
  · rw [step_of_pending_nil hp hnil, seqStep_of_resetClear hclear]
  · rw [step_of_pending_seq hp hseq, seqStep_of_resetClear (s := { s with pending := rest }) hclear]

/-- Settles O52: the reset step reads the build and the model's own fields and nothing of the block. -/
theorem resetDiscardsTheCommandInFlight : Obligations.ResetDiscardsTheCommandInFlight := by
  intro s s' hcfg hpending hresponses hdraws hepoch
  rw [State.hardReset, State.hardReset, hcfg, hpending, hresponses, hdraws, hepoch]

/-- Settles O53: the reset state has the cleared grid, an empty stack and IDLE. -/
theorem resetStateHasTheInvariants : Obligations.ResetStateHasTheInvariants := by
  have hp : State.reset.cfg.legal = true := rfl
  exact ⟨(GridInv.gridClear hp).of_eq rfl rfl, stackInv_of_empty hp rfl rfl rfl rfl, nofun, rfl, rfl⟩

end Sys2Proof.Machine
end
